-- ==== Sys2Proof/Word.lean ====
section
/-! DEFINITION. The word type of HUFQ: every register is 32 bits wide and unsigned (00_scope.md R10). -/

namespace Sys2Proof

/-- A 32-bit register value, bit 0 the least significant (R10). -/
abbrev Word := BitVec 32

/-- One byte lane of a bus access (R74). -/
abbrev Byte := BitVec 8

end Sys2Proof
end

