-- ==== Sys2Proof/Config.lean ====
section
/-! DEFINITION. What an implementation of HUFQ fixes: the parameters of 00_scope.md R7 with their defaults, the open bus
address BASE, and the one free value of the model, what a register reads as while a command is in flight (R80). -/

namespace Sys2Proof

/-- The parameters of R7 (D2, D4, D5, D6) with the spec's values as defaults. WW is fixed at 32, the register width, and
NSYM and NULL are derived. -/
structure Params where
  /-- SYMW, the symbol width in bits. -/
  symw : Nat := 8
  /-- HW, the node handle width in bits. -/
  hw : Nat := 9
  /-- NCAP, the node store capacity in nodes. -/
  ncap : Nat := 511
  /-- KW, the tie-break key width in bits. -/
  kw : Nat := 10
  /-- QCAP, the priority queue capacity in entries. -/
  qcap : Nat := 256
  deriving DecidableEq, Repr

/-- The parameter values the spec states (R7). -/
def Params.default : Params := {}

/-- NSYM, the number of symbol values, `2^SYMW` (R7). -/
def Params.nsym (p : Params) : Nat := 2 ^ p.symw

/-- NULL, the absent-node handle, `2^HW − 1` (R7). -/
def Params.null (p : Params) : Nat := 2 ^ p.hw - 1

/-- WW, the weight width in bits: fixed at 32 (R7). -/
def Config.weightWidth : Nat := 32

/-- FREE VALUE (R80, I4; log entry 3): what the n-th draw gives for a register read made while a command is in flight.
It has no body: nothing can be proved of it. -/
opaque Config.freeWord : Nat → Word

/-- OPEN (R7, R71, I13; log entry 4): which 64-byte block of the platform's bus holds the register window. -/
opaque Config.block : Nat

/-- BASE, the bus address of register offset 0 (R71). DEDUCED (log entry 4): a multiple of 64, since HUFQ decodes only the
low 6 bits of an address and offsets are relative to BASE. -/
def Config.base : Nat := 64 * Config.block

end Sys2Proof
end

