-- ==== Sys2Proof/Syntax.lean ====
section
/-! DEFINITION. The commands of HUFQ (30_encoding.md R102), one constructor per row of spec/opcode_table.json,
and the reasons a command word names no command (R97). -/

namespace Sys2Proof

/-- The ten commands the host can write to CMD. Their other operands are the latched argument registers (R100), so the
only operand in the word is the bit of DEC_BIT (R99). -/
inductive Instr where
  /-- NOP (43_control.md R165). -/
  | nop
  /-- CLEAR (43_control.md R166). -/
  | clear
  /-- LEAF (41_tree_builder.md R126). -/
  | leaf
  /-- MERGE (41_tree_builder.md R128). -/
  | merge
  /-- BUILD (41_tree_builder.md R129). -/
  | build
  /-- PQ_INSERT (40_priority_queue.md R112). -/
  | pqInsert
  /-- PQ_EXTRACT (40_priority_queue.md R113). -/
  | pqExtract
  /-- NODE_READ (41_tree_builder.md R131). -/
  | nodeRead
  /-- DEC_RESET (42_decoder.md R151). -/
  | decReset
  /-- DEC_BIT b (42_decoder.md R152); `b` is bit 0 of the word: false goes left, true goes right. -/
  | decBit (b : Bool)
  deriving DecidableEq, Repr

/-- Why a command word is illegal, in the order the decode checks (R97). The machine raises ILLEGAL for each (R168). -/
inductive IllegalReason where
  /-- OP is 0xA to 0xF (R103). -/
  | reservedOpcode
  /-- A bit of 27:1 is set (R98). -/
  | reservedBits
  /-- Bit 0 is set in a command other than DEC_BIT (R99). -/
  | bitOperand
  deriving DecidableEq, Repr

end Sys2Proof
end

