-- ==== Sys2Proof/WellFormed.lean ====
section
/-! DEFINITION. Which instructions and which parameter choices are well formed. -/

namespace Sys2Proof

/-- Every instruction is well formed: the one operand is a single bit, and a bit has only its two values (R99, C3). -/
def Instr.wellFormed : Instr → Bool
  | .nop => true
  | .clear => true
  | .leaf => true
  | .merge => true
  | .build => true
  | .pqInsert => true
  | .pqExtract => true
  | .nodeRead => true
  | .decReset => true
  | .decBit _ => true

/-- The constraints on the parameters. The first six are R7's own. The last two are DEDUCED (log entry 7) from the places
where a handle is zero-extended to 16 bits (R131) and a key to 32 (R113). -/
def Params.wellFormed (p : Params) : Bool :=
  decide (1 ≤ p.symw) && decide (p.symw ≤ 16) && decide (p.ncap ≤ 2 ^ p.hw - 1) &&
    decide (p.nsym + p.ncap ≤ 2 ^ p.kw) && decide (1 ≤ p.qcap) && decide (p.qcap ≤ 65535) &&
    decide (p.hw ≤ 16) && decide (p.kw ≤ 32)

end Sys2Proof
end

