-- ==== Sys2Proof/Decode.lean ====
section
/-! DEFINITION. The command word (30_encoding.md): its fields, the total decode of R97, and the encoder of R102. -/

namespace Sys2Proof

/-! ### Fields of the word (R96) -/

/-- OP, bits 31:28. -/
def opField (v : Word) : BitVec 4 := v.extractLsb' 28 4

/-- RSV, bits 27:1. -/
def rsvField (v : Word) : BitVec 27 := v.extractLsb' 1 27

/-- B, bit 0. -/
def bField (v : Word) : Bool := v.getLsbD 0

/-! ### Decode (R97) -/

/-- The command that a legal word with opcode `op` names, with `b` for DEC_BIT (R102). -/
def instrOfOp (op : BitVec 4) (b : Bool) : Except IllegalReason Instr :=
  match op.toNat with
  | 0 => .ok .nop
  | 1 => .ok .clear
  | 2 => .ok .leaf
  | 3 => .ok .merge
  | 4 => .ok .build
  | 5 => .ok .pqInsert
  | 6 => .ok .pqExtract
  | 7 => .ok .nodeRead
  | 8 => .ok .decReset
  | 9 => .ok (.decBit b)
  | _ => .error .reservedOpcode

/-- The total decode of a command word, its three checks in the order of R97. -/
def decode (v : Word) : Except IllegalReason Instr :=
  if 0xA ≤ (opField v).toNat then .error .reservedOpcode
  else if rsvField v ≠ 0 then .error .reservedBits
  else if opField v ≠ 0x9 ∧ bField v = true then .error .bitOperand
  else instrOfOp (opField v) (bField v)

/-- The command a word names, or none when the word is illegal (R97). -/
def decodeWord (v : Word) : Option Instr :=
  match decode v with
  | .ok i => some i
  | .error _ => none

/-- The instruction the decoder reads from an instruction whose bits are `w`, numbered as spec/opcode_table.json numbers
them: one 32-bit word, so bits above the row's are 0. -/
def decodeTableWord (nbits w : Nat) : Option Instr := decodeWord (BitVec.ofNat 32 (w % 2 ^ nbits))

/-! ### Encode (R96, R102) -/

/-- The opcode number of each command (R102). -/
def opcode : Instr → BitVec 4
  | .nop => 0x0
  | .clear => 0x1
  | .leaf => 0x2
  | .merge => 0x3
  | .build => 0x4
  | .pqInsert => 0x5
  | .pqExtract => 0x6
  | .nodeRead => 0x7
  | .decReset => 0x8
  | .decBit _ => 0x9

/-- Bit 0 of the command word: the operand of DEC_BIT, 0 in every other command (R99). -/
def operandBit : Instr → Bool
  | .nop => false
  | .clear => false
  | .leaf => false
  | .merge => false
  | .build => false
  | .pqInsert => false
  | .pqExtract => false
  | .nodeRead => false
  | .decReset => false
  | .decBit b => b

/-- The command word of an instruction: OP, 27 zero bits, B (R96). -/
def encode (i : Instr) : Word := opcode i ++ (0 : BitVec 27) ++ BitVec.ofBool (operandBit i)

/-! ### Byte lanes (R74) -/

/-- The byte that lane `i` of a byte-addressed bus carries: bits `8i+7:8i` of the word (R74). -/
def byteLane (v : Word) (i : Nat) : Byte := v.extractLsb' (8 * i) 8

/-- The word whose lanes 0 to 3 are the given bytes: little-endian (R74). -/
def wordOfLanes (b0 b1 b2 b3 : Byte) : Word := b3 ++ b2 ++ b1 ++ b0

end Sys2Proof
end

