-- ==== Sys2Proof/Machine/State.lean ====
section
/-! DEFINITION. The state of HUFQ as plain data: everything 10_state.md R30 names, the host's remaining accesses and the
schedule of the agents, with the state after reset (R61). -/

namespace Sys2Proof.Machine

/-- STATUS.PHASE (R38). -/
inductive Phase where
  /-- 0: the tree is being built. -/
  | load
  /-- 1: BUILD has finished. -/
  | built
  deriving DecidableEq, Repr

/-- STATUS.ERR, the outcome of the last completed command (R43, R175). Codes 12 to 15 are never written. -/
inductive ErrCode where
  /-- 0: the command succeeded. -/
  | ok
  /-- 1: the command word is illegal (R168). -/
  | illegal
  /-- 2: a latched argument is out of range (R176). -/
  | badArg
  /-- 3: the tree is finished and the command would change it (R38). -/
  | locked
  /-- 4: extract from an empty queue, or a merge with fewer than two entries (R177). -/
  | emptyQ
  /-- 5: insert into a queue holding QCAP entries. -/
  | qFull
  /-- 6: allocate a node when NALLOC = NCAP. -/
  | aFull
  /-- 7: a second leaf for a symbol in SEEN (R55). -/
  | dupSym
  /-- 8: a handle that is not below NALLOC. -/
  | badNode
  /-- 9: a merged weight does not fit in WW bits. -/
  | wOvf
  /-- 10: a decoder command while TREE = 0 (R150). -/
  | noTree
  /-- 11: the indicated child is absent at an internal node; never raised (R154, R178). -/
  | decErr
  deriving DecidableEq, Repr

/-- A node record (R13, R45). `symbol` is 0 in an internal node (D44); an absent child is the handle NULL. -/
structure Node where
  weight : Word
  symbol : Nat
  left : Nat
  right : Nat
  deriving DecidableEq, Repr

/-- A queue entry `(w, k, n)`: weight, tie-break key, node handle (R13, R50). -/
structure Entry where
  w : Word
  k : Nat
  n : Nat
  deriving DecidableEq, Repr

/-- The node store (R45): (handle, record) pairs, handles strictly rising, no record equal to what an unlisted one reads as
(log entry 2). The record is the smallest addressable unit (R85). -/
abbrev Memory := List (Nat × Node)

/-- The sixteen registers of the window (R72). -/
inductive Reg where
  | cmd | status | arg0 | arg1 | arg2 | res0 | res1 | res2
  | qsize | root | cur | nalloc | seq | outcnt | params0 | params1
  deriving DecidableEq, Repr

/-- The width of a bus access. HUFQ admits 32 bits only (R73). -/
inductive AccessSize where
  | bits8 | bits16 | bits32 | bits64
  deriving DecidableEq, Repr

/-- Where a bus access goes: an offset from BASE, or a bus address of the platform (R71). -/
inductive BusAddr where
  /-- Byte offset from BASE. -/
  | offset (o : Nat)
  /-- A platform bus address. -/
  | bus (a : Nat)
  deriving DecidableEq, Repr

/-- One operation of the host (R14, R106). -/
inductive HostOp where
  /-- One bus read. -/
  | read (size : AccessSize) (addr : BusAddr)
  /-- One bus write of `value`. -/
  | write (size : AccessSize) (addr : BusAddr) (value : Word)
  /-- `wait`: read STATUS until BUSY = 0 (R106). -/
  | wait
  deriving DecidableEq, Repr

/-- Whose turn it is (R14, R200). -/
inductive Turn where
  /-- The host makes its next access, if it has one. -/
  | host
  /-- The engine performs the pending command, if there is one. -/
  | engine
  /-- The reset input is asserted (R200). -/
  | reset
  deriving DecidableEq, Repr

/-- A bus read the host has made: the register and the value it returned. -/
structure ReadRecord where
  reg : Reg
  value : Word
  deriving DecidableEq, Repr

/-- The model has no fault: an error of HUFQ is an architectural outcome that STATUS reports (R16, R180), and no accepted
command hangs (R214). Nobody raises one, so the type is empty, which is safe. -/
inductive Fault where
  deriving DecidableEq, Repr

/-- Why a step has no next state. -/
inductive Refusal where
  /-- Raised by an arm of `exec` whose instruction has no meaning yet, with its mnemonic; safe. No arm raises it. -/
  | notModelled (mnemonic : String)
  /-- Raised by a host access that is not 32 bits wide: HUFQ does not admit it (R73, R75); safe. -/
  | accessWidth (size : AccessSize)
  /-- Raised by a host access outside the 64-byte window: no part of HUFQ (R71, R75); safe. -/
  | outsideWindow (addr : BusAddr)
  /-- Raised by a host access at an offset that is no multiple of 4: HUFQ does not admit it (R73, R75); safe. -/
  | misaligned (addr : BusAddr)
  deriving DecidableEq, Repr

/-- The state of HUFQ (R30), and below it the model's own fields. -/
structure State where
  /-- The parameters that PARAMS0 and PARAMS1 report (R44); no step changes them. -/
  params : Params
  /-- ARG0 to ARG2 (R31, R32, R33). -/
  arg0 : Word
  arg1 : Word
  arg2 : Word
  /-- RES0 to RES2 (R34, R35, R36). -/
  res0 : Word
  res1 : Word
  res2 : Word
  /-- STATUS.PHASE (R38). -/
  phase : Phase
  /-- STATUS.ERR (R43). -/
  err : ErrCode
  /-- STATUS.ERRS (R42). -/
  errs : Bool
  /-- STATUS.OVR (R42). -/
  ovr : Bool
  /-- STATUS.SYMV (R40). -/
  symv : Bool
  /-- The node store A (R45). -/
  store : Memory
  /-- NALLOC (R47). -/
  nalloc : Nat
  /-- SEQ (R49). -/
  seq : Nat
  /-- The priority queue Q (R50): the multiset as a list, least entry first. -/
  queue : List Entry
  /-- ROOT, a handle or NULL (R52). -/
  root : Nat
  /-- CUR, a handle or NULL (R53). -/
  cur : Nat
  /-- OUTCNT (R54). -/
  outcnt : Word
  /-- SEEN (R55): the set of symbols as a strictly rising list. -/
  seen : List Nat
  /-- PEND (R56). -/
  pend : Bool
  /-- LCMD and LA0 to LA2 (R56). -/
  lcmd : Word
  la0 : Word
  la1 : Word
  la2 : Word
  /-- MODEL'S OWN (log entry 5): the host's operations still to come, oldest first. -/
  prog : List HostOp
  /-- MODEL'S OWN (log entry 5): the agents to move next, in order. -/
  turns : List Turn
  /-- MODEL'S OWN (log entry 6): what the host has read, newest first. -/
  reads : List ReadRecord
  /-- MODEL'S OWN (log entry 3): how many free values have been drawn. -/
  draws : Nat
  deriving DecidableEq, Repr

/-- The reset state of R61 under parameters `p`. The latches are 0 and the node store lists nothing: both unspecified and
unobservable (R62; log entries 1 and 2). -/
def State.resetWith (p : Params) : State where
  params := p
  arg0 := 0
  arg1 := 0
  arg2 := 0
  res0 := 0
  res1 := 0
  res2 := 0
  phase := .load
  err := .ok
  errs := false
  ovr := false
  symv := false
  store := []
  nalloc := 0
  seq := 0
  queue := []
  root := p.null
  cur := p.null
  outcnt := 0
  seen := []
  pend := false
  lcmd := 0
  la0 := 0
  la1 := 0
  la2 := 0
  prog := []
  turns := []
  reads := []
  draws := 0

/-- HUFQ right after reset, with the spec's parameter values (R7, R61). -/
def State.reset : State := State.resetWith Params.default

/-- The outcome of a step of HUFQ. -/
abbrev Result := Host.Outcome State Fault Refusal

end Sys2Proof.Machine
end

