-- ==== Sys2Proof/Machine/Ops.lean ====
section
/-! DEFINITION. The named operations over the node store, the queue, SEEN and the handshake, the one operation that raises
an error (60_exceptions.md R180), and the choice of the agent that moves next. -/

namespace Sys2Proof.Machine

/-! ### Node records (R13) -/

/-- `Leaf(w, s)` (R13). -/
def Node.leaf (p : Params) (w : Word) (s : Nat) : Node := { weight := w, symbol := s, left := p.null, right := p.null }

/-- `Internal(w, l, r)` (R13): its symbol field holds 0 (D44). -/
def Node.internal (w : Word) (l r : Nat) : Node := { weight := w, symbol := 0, left := l, right := r }

/-- `isLeaf(node)`: both children are NULL (R13). -/
def Node.isLeaf (p : Params) (n : Node) : Bool := decide (n.left = p.null) && decide (n.right = p.null)

/-! ### The node store (R45, R46) -/

/-- What a handle reads as that the store does not list. DESIGN CHOICE (log entry 2): R62 allows any value, and no step of a
machine that started from reset reads one. -/
def Node.unwritten : Node := { weight := 0, symbol := 0, left := 0, right := 0 }

/-- `ArenaRead(h)` (R12): one whole record (R85). -/
def Memory.read : Memory → Nat → Node
  | [], _ => Node.unwritten
  | (a, x) :: rest, h => if a = h then x else Memory.read rest h

/-- `ArenaWrite(h, node)` (R12), keeping the canonical form. -/
def Memory.write : Memory → Nat → Node → Memory
  | [], h, n => if n = Node.unwritten then [] else [(h, n)]
  | (a, x) :: rest, h, n =>
    if h < a then (if n = Node.unwritten then (a, x) :: rest else (h, n) :: (a, x) :: rest)
    else if a = h then (if n = Node.unwritten then rest else (h, n) :: rest)
    else (a, x) :: Memory.write rest h n

/-- The canonical form: handles strictly rising, no record equal to what an unlisted handle reads as. -/
def Memory.wf : Memory → Bool
  | [] => true
  | (h, n) :: rest => decide (n ≠ Node.unwritten) && rest.all (fun c => decide (h < c.1)) && Memory.wf rest

/-! ### The queue order and its operations (R50, R110, R111) -/

/-- The order of queue entries: weight, then key, then handle, all unsigned (R110). -/
abbrev Entry.Before (a b : Entry) : Prop :=
  a.w.toNat < b.w.toNat ∨ (a.w.toNat = b.w.toNat ∧ a.k < b.k) ∨ (a.w.toNat = b.w.toNat ∧ a.k = b.k ∧ a.n < b.n)

/-- `minQ(Q)` (R12, R111): the least entry, none for the empty queue. -/
def minEntry : List Entry → Option Entry
  | [] => none
  | e :: es =>
    match minEntry es with
    | none => some e
    | some m => if m.Before e then some m else some e

/-- `Q ∪ {e}` (R12): one more copy of `e`, the list kept in the order of R110. -/
def insertEntry (e : Entry) : List Entry → List Entry
  | [] => [e]
  | x :: xs => if x.Before e then x :: insertEntry e xs else e :: x :: xs

/-- The least entry and `Q − {e}`, one copy of it removed (R12). -/
def extractMin (q : List Entry) : Option (Entry × List Entry) :=
  match minEntry q with
  | none => none
  | some e => some (e, q.erase e)

/-- The canonical form of the queue's list: no entry comes before an earlier one. -/
abbrev queueSorted (q : List Entry) : Prop := q.Pairwise (fun a b => ¬ b.Before a)

/-! ### SEEN (R55) -/

/-- `SEEN ∪ {s}`, the list kept strictly rising. -/
def insertSymbol (s : Nat) : List Nat → List Nat
  | [] => [s]
  | x :: xs => if s < x then s :: x :: xs else if s = x then x :: xs else x :: insertSymbol s xs

/-! ### Updates of the state -/

/-- The end of a command that raised nothing: ERR is written 0 and PEND cleared in the same step (R43, R57). -/
def State.complete (s : State) : State := { s with err := .ok, pend := false }

/-- RAISING AN ERROR, the one shared operation (R180): ERR takes the code, ERRS is set, the command ends. -/
def State.raiseErr (s : State) (e : ErrCode) : State := { s with err := e, errs := true, pend := false }

/-- The three result registers (R101). -/
def State.setResults (s : State) (r0 r1 r2 : Word) : State := { s with res0 := r0, res1 := r1, res2 := r2 }

/-- Allocate the next handle and write its record (R47). -/
def State.allocate (s : State) (n : Node) : State :=
  { s with store := s.store.write s.nalloc n, nalloc := s.nalloc + 1 }

/-- `Q <- Q ∪ {e}`. -/
def State.enqueue (s : State) (e : Entry) : State := { s with queue := insertEntry e s.queue }

/-- `SEEN <- SEEN ∪ {x}`. -/
def State.markSeen (s : State) (x : Nat) : State := { s with seen := insertSymbol x s.seen }

/-- A CMD write accepted while PEND = 0 (R56, R78). -/
def State.acceptCmd (s : State) (v : Word) : State :=
  { s with pend := true, lcmd := v, la0 := s.arg0, la1 := s.arg1, la2 := s.arg2 }

/-- One free value has been drawn (R80). -/
def State.drawn (s : State) : State := { s with draws := s.draws + 1 }

/-- The engine state that CLEAR writes (R166): everything R61 gives but the parameters, ARG0 to ARG2, OVR, ERR, PEND, the
latches and the old node records. -/
def State.clearEngine (s : State) : State :=
  { s with
    queue := [], nalloc := 0, seq := 0, seen := [], root := s.params.null, cur := s.params.null, outcnt := 0,
    phase := .load, symv := false, errs := false, res0 := 0, res1 := 0, res2 := 0 }

/-- The reset input (R200): every piece of HUFQ's state takes its value of R61, whether or not a command is in flight. The
parameters are constants; the host's operations, the schedule and the host's record are not HUFQ's. -/
def State.assertReset (s : State) : State :=
  { State.resetWith s.params with prog := s.prog, turns := s.turns, reads := s.reads, draws := s.draws }

/-! ### Outcomes of a command -/

/-- A command that succeeded, leaving `s` apart from ERR and PEND. -/
def finish (s : State) : Result := .next s.complete

/-- `raise e` in state `s` (R12, R180). An error is a next state: HUFQ goes on (R181). -/
def raise (s : State) (e : ErrCode) : Result := .next (s.raiseErr e)

/-! ### The schedule -/

/-- The agent that moves next, and the state without its turn. DESIGN CHOICE (log entry 5): `turns` is any interleaving;
when it runs out the engine moves while a command is pending, else the host. -/
def nextTurn (s : State) : Turn × State :=
  match s.turns with
  | t :: ts => (t, { s with turns := ts })
  | [] => (if s.pend then .engine else .host, s)

end Sys2Proof.Machine
end

