-- ==== Sys2Proof/Machine/Operands.lean ====
section
/-! DEFINITION. The operand forms of the commands: the latched arguments and their ranges (30_encoding.md R100), and the
packing of results (R101). -/

namespace Sys2Proof.Machine

/-! ### Widths -/

/-- `zext_32` of an unsigned field (R11). -/
def zext32 (n : Nat) : Word := BitVec.ofNat 32 n

/-- The field `v[width-1:0]` as an unsigned number (R10). -/
def lowBits (v : Word) (width : Nat) : Nat := v.toNat % 2 ^ width

/-- `{zext_16(right), zext_16(left)}` (R131). -/
def packChildren (right left : Nat) : Word := BitVec.ofNat 16 right ++ BitVec.ofNat 16 left

/-- `{d[7:0], c[7:0], b[7:0], a[7:0]}` (R44). -/
def packBytes (d c b a : Nat) : Word := BitVec.ofNat 8 d ++ BitVec.ofNat 8 c ++ BitVec.ofNat 8 b ++ BitVec.ofNat 8 a

/-- `{b[15:0], a[15:0]}` (R44). -/
def packHalves (b a : Nat) : Word := BitVec.ofNat 16 b ++ BitVec.ofNat 16 a

/-! ### Latched arguments (R100) -/

/-- LA0 as a weight: all 32 bits (R31). -/
def State.weightArg (s : State) : Word := s.la0

/-- `LA1[KW-1:0]`, the tie-break key (R112). -/
def State.keyArg (s : State) : Nat := lowBits s.la1 s.params.kw

/-- `LA2[HW-1:0]`, a node handle (R112, R131). -/
def State.handleArg (s : State) : Nat := lowBits s.la2 s.params.hw

/-- `LA2[SYMW-1:0]`, a symbol (R126). -/
def State.symbolArg (s : State) : Nat := lowBits s.la2 s.params.symw

/-- LA1 is below `2^KW` (R112, R176). -/
abbrev State.KeyInRange (s : State) : Prop := s.la1.toNat < 2 ^ s.params.kw

/-- LA2 is below `2^HW` (R112, R176). -/
abbrev State.HandleInRange (s : State) : Prop := s.la2.toNat < 2 ^ s.params.hw

/-- LA2 is below `2^SYMW` (R126, R176). -/
abbrev State.SymbolInRange (s : State) : Prop := s.la2.toNat < 2 ^ s.params.symw

/-- A handle is valid iff it is below NALLOC (R47). -/
abbrev State.Valid (s : State) (h : Nat) : Prop := h < s.nalloc

/-! ### Weights (R11, R127) -/

/-- The exact sum of two weights, none when it does not fit in WW bits (R127). -/
def addWeights (a b : Word) : Option Word :=
  if 2 ^ Config.weightWidth ≤ a.toNat + b.toNat then none else some (BitVec.ofNat 32 (a.toNat + b.toNat))

end Sys2Proof.Machine
end

