-- ==== Sys2Proof/Machine/Flags.lean ====
section
/-! DEFINITION. The STATUS register (10_state.md R37 to R43): its derived bits, its word, its error codes and its write. -/

namespace Sys2Proof.Machine

/-- The 4-bit code of an outcome (R175). -/
def ErrCode.code : ErrCode → BitVec 4
  | .ok => 0
  | .illegal => 1
  | .badArg => 2
  | .locked => 3
  | .emptyQ => 4
  | .qFull => 5
  | .aFull => 6
  | .dupSym => 7
  | .badNode => 8
  | .wOvf => 9
  | .noTree => 10
  | .decErr => 11

/-- The bit that PHASE reads as (R37). -/
def Phase.bit : Phase → Bool
  | .load => false
  | .built => true

/-- TREE: `PHASE = 1 and ROOT ≠ NULL` (R39). -/
def State.tree (s : State) : Bool := decide (s.phase = .built) && decide (s.root ≠ s.params.null)

/-- MIDCODE: `TREE = 1 and CUR ≠ ROOT` (R41). -/
def State.midcode (s : State) : Bool := s.tree && decide (s.cur ≠ s.root)

/-- The STATUS word (R37): bits 31:12 and 7 are reserved and read 0, BUSY is PEND (R58). -/
def State.statusWord (s : State) : Word :=
  (0 : BitVec 20) ++ s.err.code ++ (0 : BitVec 1) ++ BitVec.ofBool s.ovr ++ BitVec.ofBool s.errs ++
    BitVec.ofBool s.midcode ++ BitVec.ofBool s.symv ++ BitVec.ofBool s.tree ++ BitVec.ofBool s.phase.bit ++
    BitVec.ofBool s.pend

/-- STATUS as read while a command is in flight (R80): BUSY is 1, every other bit is the free value `v`. -/
def busyStatus (v : Word) : Word := v ||| 1

/-- A bus write of `v` to STATUS (R42): while idle, bit 5 clears ERRS and bit 6 clears OVR; while busy it is ignored. -/
def State.writeStatus (s : State) (v : Word) : State :=
  if s.pend then s else { s with errs := s.errs && !v.getLsbD 5, ovr := s.ovr && !v.getLsbD 6 }

end Sys2Proof.Machine
end

