-- ==== Sys2Proof/Machine/Bus.lean ====
section
/-! DEFINITION. The host agent: the register map, bus reads and writes, and the poll of STATUS (20_memory.md R70 to R87). -/

namespace Sys2Proof.Machine

/-! ### The register map (R72) -/

/-- The byte offset of each register from BASE (R72). -/
def Reg.offset : Reg → Nat
  | .cmd => 0x00
  | .status => 0x04
  | .arg0 => 0x08
  | .arg1 => 0x0C
  | .arg2 => 0x10
  | .res0 => 0x14
  | .res1 => 0x18
  | .res2 => 0x1C
  | .qsize => 0x20
  | .root => 0x24
  | .cur => 0x28
  | .nalloc => 0x2C
  | .seq => 0x30
  | .outcnt => 0x34
  | .params0 => 0x38
  | .params1 => 0x3C

/-- The register at a byte offset; every multiple of 4 below 64 is assigned (R72). -/
def regAt : Nat → Option Reg
  | 0x00 => some .cmd
  | 0x04 => some .status
  | 0x08 => some .arg0
  | 0x0C => some .arg1
  | 0x10 => some .arg2
  | 0x14 => some .res0
  | 0x18 => some .res1
  | 0x1C => some .res2
  | 0x20 => some .qsize
  | 0x24 => some .root
  | 0x28 => some .cur
  | 0x2C => some .nalloc
  | 0x30 => some .seq
  | 0x34 => some .outcnt
  | 0x38 => some .params0
  | 0x3C => some .params1
  | _ => none

/-- The offset in the window that an address names, none outside it (R71): a bus address is decoded by its low 6 bits. -/
def BusAddr.windowOffset : BusAddr → Option Nat
  | .offset o => if o < 64 then some o else none
  | .bus a => if Config.base ≤ a ∧ a < Config.base + 64 then some (a % 64) else none

/-- The register an access reaches, or the refusal of an access the bus does not admit (R73, R75): its width is checked,
then the window, then the alignment (DESIGN CHOICE, log entry 8). -/
def busTarget (size : AccessSize) (addr : BusAddr) : Except Refusal Reg :=
  if size ≠ .bits32 then .error (.accessWidth size)
  else
    match addr.windowOffset with
    | none => .error (.outsideWindow addr)
    | some o =>
      match regAt o with
      | none => .error (.misaligned addr)
      | some r => .ok r

/-! ### Reads (R77, R80, R82) -/

/-- PARAMS0 = `{KW[7:0], HW[7:0], SYMW[7:0], WW[7:0]}` (R44). -/
def Params.word0 (p : Params) : Word := packBytes p.kw p.hw p.symw Config.weightWidth

/-- PARAMS1 = `{NCAP[15:0], QCAP[15:0]}` (R44). -/
def Params.word1 (p : Params) : Word := packHalves p.ncap p.qcap

/-- What a register reads as while no command is in flight (R72, R82). -/
def State.regValue (s : State) : Reg → Word
  | .cmd => 0
  | .status => s.statusWord
  | .arg0 => s.arg0
  | .arg1 => s.arg1
  | .arg2 => s.arg2
  | .res0 => s.res0
  | .res1 => s.res1
  | .res2 => s.res2
  | .qsize => zext32 s.queue.length
  | .root => zext32 s.root
  | .cur => zext32 s.cur
  | .nalloc => zext32 s.nalloc
  | .seq => zext32 s.seq
  | .outcnt => s.outcnt
  | .params0 => Params.word0 s.params
  | .params1 => Params.word1 s.params

/-- FREE VALUE (log entry 3): the next value drawn, and the state with the draw counted. -/
def State.draw (s : State) : Word × State := (Config.freeWord s.draws, s.drawn)

/-- A read while a command is in flight (R80): exact for CMD, ARG0 to ARG2, PARAMS0 and PARAMS1, BUSY = 1 in STATUS, and a
fresh free value for all else. -/
def State.busyRead (s : State) : Reg → Word × State
  | .cmd => (0, s)
  | .status => (busyStatus s.draw.1, s.draw.2)
  | .arg0 => (s.arg0, s)
  | .arg1 => (s.arg1, s)
  | .arg2 => (s.arg2, s)
  | .res0 => s.draw
  | .res1 => s.draw
  | .res2 => s.draw
  | .qsize => s.draw
  | .root => s.draw
  | .cur => s.draw
  | .nalloc => s.draw
  | .seq => s.draw
  | .outcnt => s.draw
  | .params0 => (Params.word0 s.params, s)
  | .params1 => (Params.word1 s.params, s)

/-- `BusRead`: the value a read returns, and the state after it, which differs at most in the count of draws (R77). -/
def State.busRead (s : State) (r : Reg) : Word × State := if s.pend then s.busyRead r else (s.regValue r, s)

/-- The host's record of the value it read. -/
def State.recordRead (s : State) (r : Reg) (v : Word) : State := { s with reads := { reg := r, value := v } :: s.reads }

/-- A bus read with its value recorded. -/
def State.hostRead (s : State) (r : Reg) : State := (s.busRead r).2.recordRead r (s.busRead r).1

/-! ### Writes (R77 to R81) -/

/-- A write to CMD: accepted while idle (R78), dropped with OVR set while a command is in flight (R79). -/
def State.writeCmd (s : State) (v : Word) : State := if s.pend then { s with ovr := true } else s.acceptCmd v

/-- `BusWrite` (R77): CMD, STATUS and the arguments have effects; a write to any other register is ignored. -/
def State.busWrite (s : State) (r : Reg) (v : Word) : State :=
  match r with
  | .cmd => s.writeCmd v
  | .status => s.writeStatus v
  | .arg0 => { s with arg0 := v }
  | .arg1 => { s with arg1 := v }
  | .arg2 => { s with arg2 := v }
  | .res0 => s
  | .res1 => s
  | .res2 => s
  | .qsize => s
  | .root => s
  | .cur => s
  | .nalloc => s
  | .seq => s
  | .outcnt => s
  | .params0 => s
  | .params1 => s

/-! ### The host's turn -/

/-- One move of the host (R14, R86): its next operation, in program order. `wait` reads STATUS and is over once BUSY, which
reads as PEND (R58), is 0 (R106). With nothing left to do the host and HUFQ idle (R17, R193). -/
def hostStep (s : State) : Result :=
  match s.prog with
  | [] => .next s
  | .wait :: rest => .next { s.hostRead .status with prog := if s.pend then s.prog else rest }
  | .read size addr :: rest =>
    match busTarget size addr with
    | .error r => .refused r
    | .ok reg => .next { s.hostRead reg with prog := rest }
  | .write size addr v :: rest =>
    match busTarget size addr with
    | .error r => .refused r
    | .ok reg => .next { s.busWrite reg v with prog := rest }

end Sys2Proof.Machine
end

