-- ==== Sys2Proof/Machine/Control.lean ====
section
/-! DEFINITION. The control commands (43_control.md): NOP, CLEAR, and the illegal word. -/

namespace Sys2Proof.Machine

/-- NOP (R165): nothing but ERR = 0. -/
def execNop (s : State) : Result := finish s

/-- CLEAR (R166): discard the tree, the queue and the decoder state. -/
def execClear (s : State) : Result := finish s.clearEngine

/-- A word that decodes as ILLEGAL (R168). -/
def performIllegal (s : State) : Result := raise s .illegal

end Sys2Proof.Machine
end

