-- ==== Sys2Proof/Machine/Decoder.lean ====
section
/-! DEFINITION. The decoder commands (42_decoder.md): DEC_RESET and DEC_BIT. -/

namespace Sys2Proof.Machine

/-- DEC_RESET (R151): the state machine back at the root. -/
def execDecReset (s : State) : Result :=
  if s.tree then finish { s with cur := s.root, outcnt := 0, symv := false } else raise s .noTree

/-- The child that bit `b` names: 0 the left, 1 the right (R99, R152). -/
def Node.child (n : Node) (b : Bool) : Nat := if b then n.right else n.left

/-- An error of DEC_BIT also writes SYMV = 0 (R152, R180). -/
def raiseDecode (s : State) (e : ErrCode) : Result := raise { s with symv := false } e

/-- DEC_BIT after moving to `h` (R152): at a leaf its symbol is emitted and the walk is back at the root; else the walk
stands at `h`. -/
def arrive (s : State) (h : Nat) : Result :=
  let m := s.store.read h
  if m.isLeaf s.params then
    finish { s with res1 := zext32 m.symbol, res2 := zext32 h, symv := true, outcnt := s.outcnt + 1, cur := s.root }
  else finish { s with symv := false, cur := h }

/-- DEC_BIT b (R152). An absent child means no move at a leaf (R153) and DECERR at an internal node (C1). -/
def execDecBit (b : Bool) (s : State) : Result :=
  if s.tree then
    let n := s.store.read s.cur
    let c := n.child b
    if c ≠ s.params.null then arrive s c
    else if n.isLeaf s.params then arrive s s.cur
    else raiseDecode s .decErr
  else raiseDecode s .noTree

end Sys2Proof.Machine
end

