-- ==== Sys2Proof/Machine/Queue.lean ====
section
/-! DEFINITION. The priority queue commands (40_priority_queue.md): PQ_INSERT and PQ_EXTRACT. -/

namespace Sys2Proof.Machine

/-- PQ_INSERT (R112): checks BADARG, QFULL (R182), then one more entry. -/
def execPqInsert (s : State) : Result :=
  if ¬ s.KeyInRange ∨ ¬ s.HandleInRange then raise s .badArg
  else if s.queue.length = s.params.qcap then raise s .qFull
  else finish (s.enqueue { w := s.weightArg, k := s.keyArg, n := s.handleArg })

/-- PQ_EXTRACT (R113): remove and return the least entry. -/
def execPqExtract (s : State) : Result :=
  match extractMin s.queue with
  | none => raise s .emptyQ
  | some (e, q) => finish ({ s with queue := q }.setResults e.w (zext32 e.k) (zext32 e.n))

end Sys2Proof.Machine
end

