-- ==== Sys2Proof/Machine/Tree.lean ====
section
/-! DEFINITION. The tree builder commands (41_tree_builder.md): LEAF, MERGE, BUILD and NODE_READ. -/

namespace Sys2Proof.Machine

/-- LEAF (R126): checks BADARG, LOCKED, DUPSYM, AFULL, QFULL (R182), then a leaf record and its entry, whose key is the
symbol (R114). -/
def execLeaf (s : State) : Result :=
  if ¬ s.SymbolInRange then raise s .badArg
  else if s.phase = .built then raise s .locked
  else if s.symbolArg ∈ s.seen then raise s .dupSym
  else if s.nalloc = s.params.ncap then raise s .aFull
  else if s.queue.length = s.params.qcap then raise s .qFull
  else
    finish ((((s.allocate (Node.leaf s.params s.weightArg s.symbolArg)).markSeen s.symbolArg).enqueue
      { w := s.weightArg, k := s.symbolArg, n := s.nalloc }).setResults
      s.weightArg (zext32 s.symbolArg) (zext32 s.nalloc))

/-- `mergeStep()` (R127): either an error that changes nothing, or the new entry and the state with the merge committed.
The first extracted node is the left child; the key is `NSYM + SEQ` (R114). -/
def mergeStep (s : State) : Except ErrCode (Entry × State) :=
  match extractMin s.queue with
  | none => .error .emptyQ
  | some (a, q1) =>
    match extractMin q1 with
    | none => .error .emptyQ
    | some (b, q2) =>
      if ¬ s.Valid a.n ∨ ¬ s.Valid b.n then .error .badNode
      else if s.nalloc = s.params.ncap then .error .aFull
      else
        match addWeights a.w b.w with
        | none => .error .wOvf
        | some w =>
          let e : Entry := { w := w, k := s.params.nsym + s.seq, n := s.nalloc }
          .ok (e, { s.allocate (Node.internal w a.n b.n) with seq := s.seq + 1, queue := insertEntry e q2 })

/-- MERGE (R128): one merge step. -/
def execMerge (s : State) : Result :=
  if s.phase = .built then raise s .locked
  else
    match mergeStep s with
    | .error e => raise s e
    | .ok (e, s') => finish (s'.setResults e.w (zext32 e.k) (zext32 e.n))

/-- The loop of BUILD (R129): merge steps while `|Q| > 1`, at most `fuel` of them. Each commits on its own: on an error the
answer is the error and the state with the steps before it. -/
def buildLoop : Nat → State → Option ErrCode × State
  | 0, s => (none, s)
  | fuel + 1, s =>
    if s.queue.length ≤ 1 then (none, s)
    else
      match mergeStep s with
      | .error e => (some e, s)
      | .ok (_, s') => buildLoop fuel s'

/-- The end of a BUILD that succeeds (R129): ROOT and CUR, PHASE = 1, OUTCNT = 0 and the results. -/
def State.fixRoot (s : State) (root : Nat) (r0 r1 r2 : Word) : State :=
  { s with root := root, cur := root, phase := .built, outcnt := 0, res0 := r0, res1 := r1, res2 := r2 }

/-- BUILD (R129): the loop to its end, then the root. `|Q|` steps are more than it needs (R134). -/
def execBuild (s : State) : Result :=
  if s.phase = .built then raise s .locked
  else
    match buildLoop s.queue.length s with
    | (some e, s') => raise s' e
    | (none, s') =>
      match minEntry s'.queue with
      | none => finish (s'.fixRoot s'.params.null 0 0 (zext32 s'.params.null))
      | some e =>
        if ¬ s'.Valid e.n then raise s' .badNode
        else finish (s'.fixRoot e.n e.w (zext32 e.k) (zext32 e.n))

/-- NODE_READ (R131): the full 32-bit LA2 is compared with NALLOC. -/
def execNodeRead (s : State) : Result :=
  if ¬ s.Valid s.la2.toNat then raise s .badNode
  else
    let n := s.store.read s.handleArg
    finish (s.setResults n.weight (zext32 n.symbol) (packChildren n.right n.left))

end Sys2Proof.Machine
end

