-- ==== Sys2Proof/Machine/Dispatch.lean ====
section
/-! DEFINITION. The dispatch: one arm per command of 30_encoding.md R102. -/

namespace Sys2Proof.Machine

def exec (i : Instr) (s : State) : Host.Outcome State Fault Refusal :=
  match i with
  | .nop => Sys2Proof.Machine.execNop s
  | .clear => Sys2Proof.Machine.execClear s
  | .leaf => Sys2Proof.Machine.execLeaf s
  | .merge => Sys2Proof.Machine.execMerge s
  | .build => Sys2Proof.Machine.execBuild s
  | .pqInsert => Sys2Proof.Machine.execPqInsert s
  | .pqExtract => Sys2Proof.Machine.execPqExtract s
  | .nodeRead => Sys2Proof.Machine.execNodeRead s
  | .decReset => Sys2Proof.Machine.execDecReset s
  | .decBit b => Sys2Proof.Machine.execDecBit b s

end Sys2Proof.Machine
end

