-- ==== Sys2Proof/Machine/Engine.lean ====
section
/-! DEFINITION. The engine agent (10_state.md R57) and the turn of each agent. -/

namespace Sys2Proof.Machine

/-- Perform the word in LCMD: the command it names, or ILLEGAL (R97, R168). -/
def performLatched (s : State) : Result :=
  match decodeWord s.lcmd with
  | some i => exec i s
  | none => performIllegal s

/-- The engine step (R57): enabled exactly when PEND = 1; else the engine idles. -/
def engineStep (s : State) : Result := if s.pend then performLatched s else .next s

/-- One move of the agent whose turn it is. -/
def agentStep (t : Turn) (s : State) : Result :=
  match t with
  | .host => hostStep s
  | .engine => engineStep s
  | .reset => .next s.assertReset

/-- Place the command word `v` where the engine performs its next command, and give the engine the next turn: the accepted
CMD write of R78. -/
def placeCommand (s : State) (v : Word) : State := { s.acceptCmd v with turns := .engine :: s.turns }

end Sys2Proof.Machine
end

