-- ==== Sys2Proof/Machine/Step.lean ====
section
/-! DEFINITION. One step of HUFQ: the agent whose turn it is moves (00_scope.md R14). -/

namespace Sys2Proof.Machine

/-- One step: one host access, one engine step or one assertion of reset, each atomic (R83, R84). -/
def step (s : State) : Host.Outcome State Fault Refusal := agentStep (nextTurn s).1 (nextTurn s).2

/-- `s` with the instruction whose bits are `w` accepted by CMD and the engine to move next (log entry 9). -/
def State.withFetchWord (s : State) (nbits w : Nat) : State := placeCommand s (BitVec.ofNat 32 (w % 2 ^ nbits))

end Sys2Proof.Machine
end

