-- ==== Sys2Proof/Machine/HostProgram.lean ====
section
/-! DEFINITION. The assembler syntax of host programs (30_encoding.md R106) and the pseudo-instructions (R107), as lists of
host operations. -/

namespace Sys2Proof.Machine

/-- `wr NAME, value` (R106). -/
def wr (r : Reg) (v : Word) : HostOp := .write .bits32 (.offset r.offset) v

/-- `rd NAME` (R106). -/
def rd (r : Reg) : HostOp := .read .bits32 (.offset r.offset)

/-- `cmd MNEMONIC` and `cmd DEC_BIT b` (R106). -/
def cmd (i : Instr) : HostOp := wr .cmd (encode i)

/-- `nop` (R107). -/
def asmNop : List HostOp := [cmd .nop, .wait]

/-- `clear` (R107). -/
def asmClear : List HostOp := [cmd .clear, .wait]

/-- `leaf w, s` (R107). -/
def asmLeaf (w s : Word) : List HostOp := [wr .arg0 w, wr .arg2 s, cmd .leaf, .wait]

/-- `merge` (R107). -/
def asmMerge : List HostOp := [cmd .merge, .wait]

/-- `build` (R107). -/
def asmBuild : List HostOp := [cmd .build, .wait]

/-- `insert w, k, n` (R107). -/
def asmInsert (w k n : Word) : List HostOp := [wr .arg0 w, wr .arg1 k, wr .arg2 n, cmd .pqInsert, .wait]

/-- `extract` (R107). -/
def asmExtract : List HostOp := [cmd .pqExtract, .wait]

/-- `noderead h` (R107). -/
def asmNodeRead (h : Word) : List HostOp := [wr .arg2 h, cmd .nodeRead, .wait]

/-- `decreset` (R107). -/
def asmDecReset : List HostOp := [cmd .decReset, .wait]

/-- `decbit b` (R107). -/
def asmDecBit (b : Bool) : List HostOp := [cmd (.decBit b), .wait]

/-- `decbits b1 b2 ... bn` (R107). -/
def asmDecBits (bs : List Bool) : List HostOp := bs.flatMap asmDecBit

/-- `size -> x` (R105, R107): a read of QSIZE. -/
def asmSize : List HostOp := [rd .qsize]

end Sys2Proof.Machine
end

