-- ==== Sys2Proof/Safety.lean ====
section
/-! DEFINITION. The terms the claims use: the invariant of the machine, the policies of a queue seeded by LEAF alone, the
walk of the tree, chains of merge steps, and the emissions of a string of bits. -/

namespace Sys2Proof.Machine

/-! ### The words of a command -/

/-- `v` is an illegal word, by its number (R168): OP in 0xA to 0xF, a bit of 27:1 set, or bit 0 set with OP other than 0x9. -/
abbrev IllegalWord (v : Word) : Prop :=
  0xA ≤ v.toNat / 2 ^ 28 ∨ v.toNat % 2 ^ 28 / 2 ≠ 0 ∨ (v.toNat % 2 = 1 ∧ v.toNat / 2 ^ 28 ≠ 9)

/-- `v` is the one legal word of the command `i` (R102). -/
abbrev OnlyWord (i : Instr) (v : Word) : Prop := ∀ x : Word, decodeWord x = some i ↔ x = v

/-! ### The walk of the tree -/

/-- The node reached from `h` by a string of edge bits, none if the walk would leave a leaf (R133). -/
def walkFrom (p : Params) (m : Memory) : Nat → List Bool → Option Nat
  | h, [] => some h
  | h, b :: bs => if (m.read h).isLeaf p then none else walkFrom p m ((m.read h).child b) bs

/-- `bits` is the code of the leaf `l` (R133): the path of edge bits from ROOT to it. -/
abbrev State.CodeOf (s : State) (bits : List Bool) (l : Nat) : Prop :=
  walkFrom s.params s.store s.root bits = some l ∧ (s.store.read l).isLeaf s.params = true

/-! ### The invariant -/

/-- The shape of an allocated record (R48): a leaf with a symbol below NSYM, or an internal node whose children are smaller
handles and whose symbol field is 0 (D44). -/
abbrev State.RecordShape (s : State) (h : Nat) : Prop :=
  ((s.store.read h).left = s.params.null ∧ (s.store.read h).right = s.params.null ∧
      (s.store.read h).symbol < s.params.nsym) ∨
    ((s.store.read h).left < h ∧ (s.store.read h).right < h ∧ (s.store.read h).symbol = 0)

/-- The invariant of the machine, over every parameter choice that R7 admits. -/
structure State.Inv (s : State) : Prop where
  /-- The parameters keep the constraints of R7. -/
  params : s.params.wellFormed = true
  /-- The node store keeps its canonical form. -/
  store : s.store.wf = true
  /-- R47. -/
  nalloc : s.nalloc ≤ s.params.ncap
  /-- Each allocation is a leaf of a new symbol or a merge, so `SEQ ≤ NALLOC` (R49). -/
  count : s.nalloc = s.seen.length + s.seq
  /-- R48. -/
  records : ∀ h, h < s.nalloc → s.RecordShape h
  /-- The queue keeps its canonical form. -/
  queue : queueSorted s.queue
  /-- R50. -/
  size : s.queue.length ≤ s.params.qcap
  /-- Keys and handles of entries fit their widths (R50). -/
  entries : ∀ e, e ∈ s.queue → e.k < 2 ^ s.params.kw ∧ e.n < 2 ^ s.params.hw
  /-- While PHASE = 0 there is no root (R52). -/
  load : s.phase = .load → s.root = s.params.null
  /-- Without a root the walk pointer is NULL (R53). -/
  noRoot : s.root = s.params.null → s.cur = s.params.null
  /-- ROOT and CUR are valid while TREE = 1 (R53). -/
  valid : s.tree = true → s.root < s.nalloc ∧ s.cur < s.nalloc
  /-- CUR is ROOT or reached from it by child links (R154). -/
  reached : s.tree = true → ∃ bits, walkFrom s.params s.store s.root bits = some s.cur
  /-- CUR rests at a leaf only where ROOT is that leaf (R155). -/
  resting : s.tree = true → (s.store.read s.cur).isLeaf s.params = true → s.cur = s.root
  /-- SEEN is a set of symbols (R55). -/
  seenRising : s.seen.Pairwise (· < ·)
  /-- SEEN holds exactly the symbols of the allocated leaves (R55). -/
  seenLeaves : ∀ x, x ∈ s.seen ↔ ∃ h, h < s.nalloc ∧ (s.store.read h).isLeaf s.params = true ∧ (s.store.read h).symbol = x
  /-- DECERR is never raised (R154). -/
  err : s.err ≠ .decErr

/-! ### Queues seeded by LEAF and MERGE alone -/

/-- The key policy (R114, R115): no two entries share a key; a key below NSYM is a symbol in SEEN, and any other is the key
of a merge already made. -/
abbrev State.KeyPolicy (s : State) : Prop :=
  (s.queue.map Entry.k).Nodup ∧
    ∀ e, e ∈ s.queue → (e.k < s.params.nsym ∧ e.k ∈ s.seen) ∨ (s.params.nsym ≤ e.k ∧ e.k < s.params.nsym + s.seq)

/-- The weight policy (R132): each entry names an allocated node of its own weight, and each internal node's weight is the
sum of its children's. -/
abbrev State.WeightPolicy (s : State) : Prop :=
  (∀ e, e ∈ s.queue → e.n < s.nalloc ∧ (s.store.read e.n).weight = e.w) ∧
    ∀ h, h < s.nalloc → (s.store.read h).isLeaf s.params = false →
      (s.store.read h).weight.toNat =
        (s.store.read (s.store.read h).left).weight.toNat + (s.store.read (s.store.read h).right).weight.toNat

/-- The sum of the weights of a queue's entries, exact (R11). -/
def totalWeight (q : List Entry) : Nat := (q.map (fun e => e.w.toNat)).sum

/-! ### Chains of merge steps -/

/-- `MergeChain n s t`: `n` merge steps in a row, each committing on its own, lead from `s` to `t` (R129). -/
inductive MergeChain : Nat → State → State → Prop
  | refl (s : State) : MergeChain 0 s s
  | cons {n : Nat} {s u t : State} {e : Entry} (h : mergeStep s = .ok (e, u)) (rest : MergeChain n u t) :
      MergeChain (n + 1) s t

/-! ### Strings of bits (R156) -/

/-- The commands DEC_BIT for a string of bits, one after another. -/
def feedBits : List Bool → State → Result
  | [], s => .next s
  | b :: bs, s =>
    match exec (.decBit b) s with
    | .next t => feedBits bs t
    | .fault f => .fault f
    | .refused r => .refused r

/-- What a host collects that reads SYMV and RES1 after each DEC_BIT (R207): one place per bit, empty where nothing was
emitted. -/
def emissions : List Bool → State → List (Option Word)
  | [], _ => []
  | b :: bs, s =>
    match exec (.decBit b) s with
    | .next t => (if t.symv then some t.res1 else none) :: emissions bs t
    | .fault _ => []
    | .refused _ => []

end Sys2Proof.Machine
end

