-- ==== Sys2Proof/Certificates/Slice0/Obligations.lean ====
section
/-! DEFINITION. The statements for the provers, each from numbered rules of spec/. A record update names every field that
may change, so each effect statement is also its frame. -/

open Sys2Proof Sys2Proof.Machine

/-! ### The command word (30_encoding.md) -/

/-- A few legal words of R102 and a few illegal ones of 95_test_vectors.md (V-CTL-4 to V-CTL-9) decode as the spec says. -/
def Obligations.SampleWordsDecodeAsTabled : Prop :=
  decodeWord 0x00000000#32 = some .nop ∧ decodeWord 0x20000000#32 = some .leaf ∧
  decodeWord 0x60000000#32 = some .pqExtract ∧ decodeWord 0x80000000#32 = some .decReset ∧
  decodeWord 0x90000000#32 = some (.decBit false) ∧ decodeWord 0x90000001#32 = some (.decBit true) ∧
  decodeWord 0xA0000000#32 = none ∧ decodeWord 0xF0000000#32 = none ∧ decodeWord 0x20000001#32 = none ∧
  decodeWord 0x90000002#32 = none ∧ decodeWord 0x00000001#32 = none ∧ decodeWord 0x10000100#32 = none

/-- R102: over all 2^32 words, each command has exactly the word of the opcode map, DEC_BIT two, and no other word is a
command. -/
def Obligations.LegalWordsAreTheOpcodeMap : Prop :=
  ∀ (v : Word) (i : Instr), decodeWord v = some i ↔
    v = (match i with
      | .nop => 0x00000000#32
      | .clear => 0x10000000#32
      | .leaf => 0x20000000#32
      | .merge => 0x30000000#32
      | .build => 0x40000000#32
      | .pqInsert => 0x50000000#32
      | .pqExtract => 0x60000000#32
      | .nodeRead => 0x70000000#32
      | .decReset => 0x80000000#32
      | .decBit false => 0x90000000#32
      | .decBit true => 0x90000001#32)

/-- R96, R97: decode and encode agree in both directions, over every well-formed instruction and every word. -/
def Obligations.DecodeAndEncodeAgree : Prop :=
  (∀ i : Instr, i.wellFormed = true → decodeWord (encode i) = some i) ∧
    ∀ (v : Word) (i : Instr), decodeWord v = some i → encode i = v ∧ i.wellFormed = true

/-- R168: a word with OP in 0xA to 0xF, or a bit of 27:1 set, or bit 0 set outside DEC_BIT, is accepted like any command:
BUSY rises; the engine step, from whatever state it finds the word latched in, writes ERR = ILLEGAL and ERRS = 1, BUSY
falls, and nothing else changes. -/
def Obligations.IllegalWordRaisesIllegal : Prop :=
  (∀ (s : State) (v : Word) (rest : List HostOp) (ts : List Turn), IllegalWord v →
    s.pend = false → s.turns = .host :: .engine :: ts → s.prog = wr .cmd v :: rest →
    ∃ u, step s = .next u ∧ u.pend = true ∧
      step u = .next { s with
        turns := ts, prog := rest, lcmd := v, la0 := s.arg0, la1 := s.arg1, la2 := s.arg2,
        err := .illegal, errs := true, pend := false }) ∧
  ∀ (s : State) (ts : List Turn), IllegalWord s.lcmd → s.pend = true → s.turns = .engine :: ts →
    step s = .next { s with turns := ts, err := .illegal, errs := true, pend := false }

/-! ### The step -/

/-- R57: with a command pending and the engine to move, one step runs the instruction that the latched word decodes to; the
step itself only takes the engine's turn off the schedule. That the engine moves too where no turn is listed, the clause on
an empty `turns`, is the model's choice (log entry 5), which R57 does not state. -/
def Obligations.StepRunsDecodedInstruction : Prop :=
  ∀ (s : State) (i : Instr), s.pend = true → decodeWord s.lcmd = some i → i.wellFormed = true →
    (∀ ts, s.turns = .engine :: ts → step s = exec i { s with turns := ts }) ∧ (s.turns = [] → step s = exec i s)

/-- R214: every accepted command completes in one engine step, whatever the word and the state. -/
def Obligations.EveryAcceptedCommandCompletes : Prop :=
  ∀ (s : State) (ts : List Turn), s.pend = true → s.turns = .engine :: ts → ∃ t, step s = .next t ∧ t.pend = false

/-- The model's choice (log entry 5), no rule of the spec: with no turn listed the engine performs a pending command, whatever
its word, and with nothing pending and nothing left for the host to do, nothing changes. -/
def Obligations.DefaultScheduleRunsThePendingCommand : Prop :=
  ∀ s : State, s.turns = [] →
    (s.pend = true → ∃ t, step s = .next t ∧ t.pend = false ∧ t.turns = [] ∧ t.prog = s.prog) ∧
    (s.pend = false → s.prog = [] → step s = .next s)

/-- R57, R193: the engine step is not enabled while PEND = 0: the turn passes and nothing changes. -/
def Obligations.IdleEngineChangesNothing : Prop :=
  ∀ (s : State) (ts : List Turn), s.pend = false → s.turns = .engine :: ts → step s = .next { s with turns := ts }

/-- However many polls come before the engine moves, `wait` ends: after them, the engine step and one more poll, the command
has completed and the host goes on. R212 promises that under weak fairness of the engine; here the fairness is the model's
choice of who moves once `turns` is empty (log entry 5). That each poll is one read is log entry 12, and the record that
counts the reads is log entry 6. -/
def Obligations.WaitEndsAfterTheEngineStep : Prop :=
  ∀ (n : Nat) (s : State) (rest : List HostOp), s.pend = true → s.prog = .wait :: rest →
    s.turns = List.replicate n .host →
    ∃ t, core.run (n + 2) s = .next t ∧ t.pend = false ∧ t.prog = rest ∧ t.reads.length = s.reads.length + n + 1

/-! ### The bus (20_memory.md) -/

/-- R82: while PEND = 0 a read of a register returns its exact current value, and changes nothing but the host's record. -/
def Obligations.IdleReadsAreExact : Prop :=
  ∀ (s : State) (r : Reg) (rest : List HostOp) (ts : List Turn),
    s.pend = false → s.turns = .host :: ts → s.prog = rd r :: rest →
    step s = .next { s with
      turns := ts, prog := rest,
      reads := { reg := r, value := (match r with
        | .cmd => 0
        | .status => s.statusWord
        | .arg0 => s.arg0
        | .arg1 => s.arg1
        | .arg2 => s.arg2
        | .res0 => s.res0
        | .res1 => s.res1
        | .res2 => s.res2
        | .qsize => BitVec.ofNat 32 s.queue.length
        | .root => BitVec.ofNat 32 s.root
        | .cur => BitVec.ofNat 32 s.cur
        | .nalloc => BitVec.ofNat 32 s.nalloc
        | .seq => BitVec.ofNat 32 s.seq
        | .outcnt => s.outcnt
        | .params0 => BitVec.ofNat 8 s.params.kw ++ BitVec.ofNat 8 s.params.hw ++ BitVec.ofNat 8 s.params.symw ++ 32#8
        | .params1 => BitVec.ofNat 16 s.params.ncap ++ BitVec.ofNat 16 s.params.qcap) } :: s.reads }

/-- While PEND = 1 a read returns BUSY = 1 in STATUS, exact contents of ARG0 to ARG2, PARAMS0 and PARAMS1, 0 for CMD, and a
freshly drawn free value for all else (R80); nothing but the draw count and the host's record changes. That a draw is
`Config.freeWord` at the counter, of which nothing is known, and that the reserved bits of STATUS are free as well, is the
model's reading of R80 (log entry 3). -/
def Obligations.BusyReadsAreFreshDraws : Prop :=
  ∀ (s : State) (r : Reg) (rest : List HostOp) (ts : List Turn),
    s.pend = true → s.turns = .host :: ts → s.prog = rd r :: rest →
    ∃ v d, step s = .next { s with turns := ts, prog := rest, draws := d, reads := { reg := r, value := v } :: s.reads } ∧
      match r with
      | .cmd => v = 0 ∧ d = s.draws
      | .status => v.getLsbD 0 = true ∧
          (∀ i, 0 < i → v.getLsbD i = (Config.freeWord s.draws).getLsbD i) ∧ d = s.draws + 1
      | .arg0 => v = s.arg0 ∧ d = s.draws
      | .arg1 => v = s.arg1 ∧ d = s.draws
      | .arg2 => v = s.arg2 ∧ d = s.draws
      | .params0 => v = Params.word0 s.params ∧ d = s.draws
      | .params1 => v = Params.word1 s.params ∧ d = s.draws
      | .res0 | .res1 | .res2 | .qsize | .root | .cur | .nalloc | .seq | .outcnt =>
          v = Config.freeWord s.draws ∧ d = s.draws + 1

/-- R37, R39, R41, R58: every bit of the STATUS word. -/
def Obligations.StatusWordFields : Prop :=
  ∀ s : State,
    (s.statusWord.getLsbD 0 = true ↔ s.pend = true) ∧
    (s.statusWord.getLsbD 1 = true ↔ s.phase = .built) ∧
    (s.statusWord.getLsbD 2 = true ↔ s.phase = .built ∧ s.root ≠ 2 ^ s.params.hw - 1) ∧
    (s.statusWord.getLsbD 3 = true ↔ s.symv = true) ∧
    (s.statusWord.getLsbD 4 = true ↔ s.phase = .built ∧ s.root ≠ 2 ^ s.params.hw - 1 ∧ s.cur ≠ s.root) ∧
    (s.statusWord.getLsbD 5 = true ↔ s.errs = true) ∧
    (s.statusWord.getLsbD 6 = true ↔ s.ovr = true) ∧
    s.statusWord.getLsbD 7 = false ∧
    s.statusWord.extractLsb' 8 4 = s.err.code ∧
    ∀ i, 12 ≤ i → s.statusWord.getLsbD i = false

/-- R175: the codes of STATUS.ERR; 12 to 15 are the code of no outcome. -/
def Obligations.ErrorCodesAreAsTabled : Prop :=
  ErrCode.ok.code = 0#4 ∧ ErrCode.illegal.code = 1#4 ∧ ErrCode.badArg.code = 2#4 ∧ ErrCode.locked.code = 3#4 ∧
  ErrCode.emptyQ.code = 4#4 ∧ ErrCode.qFull.code = 5#4 ∧ ErrCode.aFull.code = 6#4 ∧ ErrCode.dupSym.code = 7#4 ∧
  ErrCode.badNode.code = 8#4 ∧ ErrCode.wOvf.code = 9#4 ∧ ErrCode.noTree.code = 10#4 ∧ ErrCode.decErr.code = 11#4 ∧
  ∀ e : ErrCode, e.code.toNat < 12

/-- R75: on the host's turn an access is refused exactly when it is not 32 bits wide, or outside the window, or misaligned;
every other access has its step. Offsets are relative to BASE. -/
def Obligations.InadmissibleAccessesAreRefused : Prop :=
  ∀ (s : State) (size : AccessSize) (o : Nat) (v : Word) (rest : List HostOp) (ts : List Turn),
    s.turns = .host :: ts →
    (s.prog = .read size (.offset o) :: rest ∨ s.prog = .write size (.offset o) v :: rest) →
    ((∃ r, step s = .refused r) ↔ size ≠ .bits32 ∨ 64 ≤ o ∨ o % 4 ≠ 0) ∧
    ((∀ r, step s ≠ .refused r) → ∃ t, step s = .next t)

/-- A bus address in the window reaches the same register as its offset from BASE, and any other reaches none. That BASE is
a multiple of 64, so that the low 6 bits of an address are its offset, is the model's deduction (log entry 4). -/
def Obligations.BusAddressesAreRelativeToBase : Prop :=
  (∀ o : Nat, o < 64 →
    (BusAddr.bus (Config.base + o)).windowOffset = some o ∧
    ∀ size r, busTarget size (.bus (Config.base + o)) = .ok r ↔ busTarget size (.offset o) = .ok r) ∧
  ∀ (a : Nat) (size : AccessSize), a < Config.base ∨ Config.base + 64 ≤ a → ∃ r, busTarget size (.bus a) = .error r

/-- R78: a write of `v` to CMD while PEND = 0 is accepted: PEND rises, the word and the three arguments are latched. -/
def Obligations.IdleCmdWriteIsAccepted : Prop :=
  ∀ (s : State) (v : Word) (rest : List HostOp) (ts : List Turn),
    s.pend = false → s.turns = .host :: ts → s.prog = wr .cmd v :: rest →
    step s = .next { s with
      turns := ts, prog := rest, pend := true, lcmd := v, la0 := s.arg0, la1 := s.arg1, la2 := s.arg2 }

/-- R79: a write to CMD while PEND = 1 is dropped and sets OVR; the latches and the command in flight stay. -/
def Obligations.BusyCmdWriteIsDropped : Prop :=
  ∀ (s : State) (v : Word) (rest : List HostOp) (ts : List Turn),
    s.pend = true → s.turns = .host :: ts → s.prog = wr .cmd v :: rest →
    step s = .next { s with turns := ts, prog := rest, ovr := true }

/-- R31, R32, R33, R77, R81: a write to an argument register stores all 32 bits, busy or not. -/
def Obligations.ArgumentWritesTakeEffectAtOnce : Prop :=
  ∀ (s : State) (v : Word) (rest : List HostOp) (ts : List Turn), s.turns = .host :: ts →
    (s.prog = wr .arg0 v :: rest → step s = .next { s with turns := ts, prog := rest, arg0 := v }) ∧
    (s.prog = wr .arg1 v :: rest → step s = .next { s with turns := ts, prog := rest, arg1 := v }) ∧
    (s.prog = wr .arg2 v :: rest → step s = .next { s with turns := ts, prog := rest, arg2 := v })

/-- R42: a write to STATUS while idle clears ERRS by bit 5 and OVR by bit 6, its other bits ignored; while busy it is
ignored. -/
def Obligations.StatusWriteClearsStickyBits : Prop :=
  ∀ (s : State) (v : Word) (rest : List HostOp) (ts : List Turn),
    s.turns = .host :: ts → s.prog = wr .status v :: rest →
    ∃ t, step s = .next t ∧ t = { s with turns := ts, prog := rest, errs := t.errs, ovr := t.ovr } ∧
      (s.pend = true → t.errs = s.errs ∧ t.ovr = s.ovr) ∧
      (s.pend = false →
        (t.errs = true ↔ s.errs = true ∧ v.getLsbD 5 = false) ∧ (t.ovr = true ↔ s.ovr = true ∧ v.getLsbD 6 = false))

/-- R72, R77: a write to a read-only register is ignored. -/
def Obligations.ReadOnlyWritesAreIgnored : Prop :=
  ∀ (s : State) (r : Reg) (v : Word) (rest : List HostOp) (ts : List Turn),
    r ∈ [Reg.res0, .res1, .res2, .qsize, .root, .cur, .nalloc, .seq, .outcnt, .params0, .params1] →
    s.turns = .host :: ts → s.prog = wr r v :: rest → step s = .next { s with turns := ts, prog := rest }

/-- R81: a write to an argument register while a command is in flight does not change that command: the engine step and the
write give the same state in either order; a write to STATUS then is ignored. -/
def Obligations.InFlightCommandIgnoresArgumentWrites : Prop :=
  ∀ (i : Instr) (s t : State) (v : Word), s.pend = true → exec i s = .next t →
    s.busWrite .arg0 v = { s with arg0 := v } ∧ exec i (s.busWrite .arg0 v) = .next (t.busWrite .arg0 v) ∧
    s.busWrite .arg1 v = { s with arg1 := v } ∧ exec i (s.busWrite .arg1 v) = .next (t.busWrite .arg1 v) ∧
    s.busWrite .arg2 v = { s with arg2 := v } ∧ exec i (s.busWrite .arg2 v) = .next (t.busWrite .arg2 v) ∧
    s.busWrite .status v = s

/-! ### Errors (60_exceptions.md) -/

/-- R180: a command that raises an error writes ERR, ERRS and PEND and nothing else, with two exceptions: DEC_BIT also writes
SYMV = 0, and BUILD keeps the merge steps it completed before the error: the chain that is kept runs to where BUILD stopped,
which is a merge step that fails, a root that is not allocated, or, with no step made, LOCKED. -/
def Obligations.ErrorsArePrecise : Prop :=
  ∀ (i : Instr) (s t : State), exec i s = .next t → t.err ≠ .ok →
    t.errs = true ∧ t.pend = false ∧
    ((∃ b, i = .decBit b) → t = { s with symv := false, err := t.err, errs := true, pend := false }) ∧
    (i = .build → ∃ n u, MergeChain n s u ∧ t = { u with err := t.err, errs := true, pend := false } ∧
      ((s.phase = .built ∧ n = 0 ∧ t.err = .locked) ∨
        (s.phase = .load ∧ 1 < u.queue.length ∧ mergeStep u = .error t.err) ∨
        (s.phase = .load ∧ ∃ e, u.queue = [e] ∧ u.nalloc ≤ e.n ∧ t.err = .badNode))) ∧
    ((∀ b, i ≠ .decBit b) → i ≠ .build → t = { s with err := t.err, errs := true, pend := false })

/-- R169: LOCKED is raised exactly by MERGE, BUILD and a LEAF with a symbol in range while PHASE = 1; NOTREE exactly by the
two decoder commands while TREE = 0; a LEAF with a symbol out of range raises BADARG in every phase. -/
def Obligations.PhaseTableOfCommands : Prop :=
  ∀ (i : Instr) (s t : State), exec i s = .next t →
    (t.err = .locked ↔
      s.phase = .built ∧ (i = .merge ∨ i = .build ∨ (i = .leaf ∧ s.la2.toNat < 2 ^ s.params.symw))) ∧
    (t.err = .noTree ↔
      ¬ (s.phase = .built ∧ s.root ≠ 2 ^ s.params.hw - 1) ∧ (i = .decReset ∨ ∃ b, i = .decBit b)) ∧
    (i = .leaf → 2 ^ s.params.symw ≤ s.la2.toNat → t.err = .badArg)

/-- R42: no command changes OVR; ERRS is set by every command that raises an error, cleared by CLEAR alone, and else kept. -/
def Obligations.CommandsAndTheStickyBits : Prop :=
  ∀ (i : Instr) (s t : State), exec i s = .next t →
    t.ovr = s.ovr ∧ (t.errs = true ↔ t.err ≠ .ok ∨ (s.errs = true ∧ i ≠ .clear))

/-- R129, R177: BUILD never raises EMPTYQ. -/
def Obligations.BuildNeverRaisesEmptyQueue : Prop :=
  ∀ s t : State, exec .build s = .next t → t.err ≠ .emptyQ

/-! ### Frames over all commands -/

/-- R31 to R33, R44, R56: no command writes an argument register, the parameters or the latches; nor does one touch the
host's operations, the schedule, the host's record or the draw count; each clears PEND. -/
def Obligations.CommandsLeaveHostSideStateAlone : Prop :=
  ∀ (i : Instr) (s t : State), exec i s = .next t →
    t.params = s.params ∧ t.arg0 = s.arg0 ∧ t.arg1 = s.arg1 ∧ t.arg2 = s.arg2 ∧ t.lcmd = s.lcmd ∧ t.la0 = s.la0 ∧
    t.la1 = s.la1 ∧ t.la2 = s.la2 ∧ t.prog = s.prog ∧ t.turns = s.turns ∧ t.reads = s.reads ∧ t.draws = s.draws ∧
    t.pend = false

/-- R34, R35, R36, R101: NOP, PQ_INSERT and DEC_RESET write no result register, DEC_BIT none unless it emits and never RES0,
and a command that raises an error none. -/
def Obligations.ResultRegistersChangeOnlyAsTabled : Prop :=
  ∀ (i : Instr) (s t : State), exec i s = .next t →
    ((i = .nop ∨ i = .pqInsert ∨ i = .decReset ∨ t.err ≠ .ok) → t.res0 = s.res0 ∧ t.res1 = s.res1 ∧ t.res2 = s.res2) ∧
    ((∃ b, i = .decBit b) → t.res0 = s.res0 ∧ (t.symv = false → t.res1 = s.res1 ∧ t.res2 = s.res2)) ∧
    (i = .clear → t.res0 = 0 ∧ t.res1 = 0 ∧ t.res2 = 0)

/-- R38, R52: only a BUILD that succeeds sets PHASE, only CLEAR takes it back, and only those two write ROOT. -/
def Obligations.PhaseAndRootChangeOnlyByBuildAndClear : Prop :=
  ∀ (i : Instr) (s t : State), exec i s = .next t →
    (i = .build ∧ t.err = .ok ∧ s.phase = .load ∧ t.phase = .built) ∨
    (i = .clear ∧ t.phase = .load ∧ t.root = 2 ^ s.params.hw - 1) ∨
    (i ≠ .clear ∧ t.phase = s.phase ∧ t.root = s.root)

/-- R40: SYMV after each command: DEC_BIT sets it exactly when it emits, which counts one symbol; a DEC_RESET that succeeds
and CLEAR set it to 0; every other command leaves it. -/
def Obligations.SymbolValidBitIsWrittenByTheDecoder : Prop :=
  ∀ (i : Instr) (s t : State), exec i s = .next t →
    ((∃ b, i = .decBit b) → (t.symv = true ↔ t.outcnt = s.outcnt + 1) ∧ (t.symv = false ↔ t.outcnt = s.outcnt)) ∧
    ((i = .clear ∨ (i = .decReset ∧ t.err = .ok)) → t.symv = false) ∧
    ((∀ b, i ≠ .decBit b) → i ≠ .clear → i ≠ .decReset → t.symv = s.symv)

/-- R38, R46: while PHASE = 1, no command but CLEAR changes the tree. -/
def Obligations.FinishedTreeIsImmutable : Prop :=
  ∀ (i : Instr) (s t : State), s.phase = .built → i ≠ .clear → exec i s = .next t →
    t.store = s.store ∧ t.nalloc = s.nalloc ∧ t.seq = s.seq ∧ t.root = s.root ∧ t.seen = s.seen ∧ t.phase = .built

/-- R46: a record at a valid handle is never changed, by any command; CLEAR too leaves the old records. -/
def Obligations.RecordsAreWrittenOnce : Prop :=
  ∀ (i : Instr) (s t : State) (h : Nat), s.store.wf = true → h < s.nalloc → exec i s = .next t →
    t.store.read h = s.store.read h

/-- R150: the decoder commands write only CUR, OUTCNT, SYMV, RES1, RES2 and the outcome: never the node store, the queue,
ROOT, PHASE, NALLOC, SEQ or SEEN. -/
def Obligations.DecoderWritesOnlyItsOwnState : Prop :=
  ∀ (i : Instr) (s t : State), (i = .decReset ∨ ∃ b, i = .decBit b) → exec i s = .next t →
    t = { s with
      cur := t.cur, outcnt := t.outcnt, symv := t.symv, res1 := t.res1, res2 := t.res2,
      err := t.err, errs := t.errs, pend := false }

/-! ### Control commands (43_control.md) -/

/-- R165: NOP writes ERR = 0 and nothing else. -/
def Obligations.NopWritesOnlyErr : Prop :=
  OnlyWord .nop 0x00000000#32 ∧ ∀ s : State, exec .nop s = .next { s with err := .ok, pend := false }

/-- R166: CLEAR discards the tree, the queue and the decoder state; the arguments, OVR and the old records stay. No other
command takes PHASE = 1 back to PHASE = 0. -/
def Obligations.ClearDiscardsEngineState : Prop :=
  OnlyWord .clear 0x10000000#32 ∧
  (∀ s : State, exec .clear s = .next { s with
    queue := [], nalloc := 0, seq := 0, seen := [], root := 2 ^ s.params.hw - 1, cur := 2 ^ s.params.hw - 1,
    outcnt := 0, phase := .load, symv := false, errs := false, res0 := 0, res1 := 0, res2 := 0,
    err := .ok, pend := false }) ∧
  ∀ (i : Instr) (s t : State), s.phase = .built → exec i s = .next t → t.phase = .load → i = .clear

/-! ### Priority queue (40_priority_queue.md) -/

/-- R112: PQ_INSERT: BADARG, then QFULL, else one more entry in Q and nothing else. -/
def Obligations.PqInsertAddsOneEntry : Prop :=
  OnlyWord .pqInsert 0x50000000#32 ∧ ∀ s : State,
    (2 ^ s.params.kw ≤ s.la1.toNat ∨ 2 ^ s.params.hw ≤ s.la2.toNat →
      exec .pqInsert s = .next { s with err := .badArg, errs := true, pend := false }) ∧
    (s.la1.toNat < 2 ^ s.params.kw → s.la2.toNat < 2 ^ s.params.hw → s.queue.length = s.params.qcap →
      exec .pqInsert s = .next { s with err := .qFull, errs := true, pend := false }) ∧
    (s.la1.toNat < 2 ^ s.params.kw → s.la2.toNat < 2 ^ s.params.hw → s.queue.length ≠ s.params.qcap →
      ∃ t, exec .pqInsert s = .next t ∧ t = { s with queue := t.queue, err := .ok, pend := false } ∧
        t.queue.Perm ({ w := s.la0, k := s.la1.toNat, n := s.la2.toNat } :: s.queue))

/-- R113: PQ_EXTRACT: EMPTYQ on the empty queue, else the least entry leaves Q and is returned. -/
def Obligations.PqExtractReturnsLeastEntry : Prop :=
  OnlyWord .pqExtract 0x60000000#32 ∧ ∀ s : State,
    (s.queue = [] → exec .pqExtract s = .next { s with err := .emptyQ, errs := true, pend := false }) ∧
    (∀ e, e ∈ s.queue → (∀ x, x ∈ s.queue → ¬ x.Before e) →
      ∃ t, exec .pqExtract s = .next t ∧
        t = { s with
          queue := t.queue, res0 := e.w, res1 := BitVec.ofNat 32 e.k, res2 := BitVec.ofNat 32 e.n,
          err := .ok, pend := false } ∧
        s.queue.Perm (e :: t.queue))

/-- R111: for a non-empty queue the least entry under R110 exists and is unique as a value. -/
def Obligations.LeastEntryIsUnique : Prop :=
  ∀ q : List Entry, q ≠ [] → ∃ e, (e ∈ q ∧ ∀ x, x ∈ q → ¬ x.Before e) ∧ minEntry q = some e ∧
    ∀ e', e' ∈ q → (∀ x, x ∈ q → ¬ x.Before e') → e' = e

/-- R110, R113: successive extracts come out in rising order: the second entry returned never comes before the first. -/
def Obligations.SuccessiveExtractsRise : Prop :=
  ∀ (s t u : State), exec .pqExtract s = .next t → t.err = .ok → exec .pqExtract t = .next u → u.err = .ok →
    (∀ e, e ∈ s.queue → e.k < 2 ^ 32 ∧ e.n < 2 ^ 32) →
    t.res0.toNat < u.res0.toNat ∨
    (t.res0 = u.res0 ∧ t.res1.toNat < u.res1.toNat) ∨
    (t.res0 = u.res0 ∧ t.res1 = u.res1 ∧ t.res2.toNat ≤ u.res2.toNat)

/-- R115: in a queue whose keys follow the policy of R114, no two entries share a key, and every command but PQ_INSERT keeps
that so. -/
def Obligations.KeysStayDistinctWithoutInserts : Prop :=
  ∀ (i : Instr) (s t : State), s.Inv → s.KeyPolicy → i ≠ .pqInsert → exec i s = .next t → t.KeyPolicy

/-! ### Tree builder (41_tree_builder.md) -/

/-- R126: LEAF: its checks in order, else a leaf record at NALLOC, its symbol in SEEN, its entry with the symbol as key, and
the results. -/
def Obligations.LeafAllocatesAndInserts : Prop :=
  OnlyWord .leaf 0x20000000#32 ∧ ∀ s : State, s.store.wf = true →
    (2 ^ s.params.symw ≤ s.la2.toNat →
      exec .leaf s = .next { s with err := .badArg, errs := true, pend := false }) ∧
    (s.la2.toNat < 2 ^ s.params.symw → s.phase = .built →
      exec .leaf s = .next { s with err := .locked, errs := true, pend := false }) ∧
    (s.la2.toNat < 2 ^ s.params.symw → s.phase = .load → s.la2.toNat ∈ s.seen →
      exec .leaf s = .next { s with err := .dupSym, errs := true, pend := false }) ∧
    (s.la2.toNat < 2 ^ s.params.symw → s.phase = .load → s.la2.toNat ∉ s.seen → s.nalloc = s.params.ncap →
      exec .leaf s = .next { s with err := .aFull, errs := true, pend := false }) ∧
    (s.la2.toNat < 2 ^ s.params.symw → s.phase = .load → s.la2.toNat ∉ s.seen → s.nalloc ≠ s.params.ncap →
      s.queue.length = s.params.qcap →
      exec .leaf s = .next { s with err := .qFull, errs := true, pend := false }) ∧
    (s.la2.toNat < 2 ^ s.params.symw → s.phase = .load → s.la2.toNat ∉ s.seen → s.nalloc ≠ s.params.ncap →
      s.queue.length ≠ s.params.qcap →
      ∃ t, exec .leaf s = .next t ∧
        t = { s with
          store := t.store, nalloc := s.nalloc + 1, seen := t.seen, queue := t.queue,
          res0 := s.la0, res1 := s.la2, res2 := BitVec.ofNat 32 s.nalloc, err := .ok, pend := false } ∧
        (∀ h, t.store.read h =
          if h = s.nalloc then
            { weight := s.la0, symbol := s.la2.toNat, left := 2 ^ s.params.hw - 1, right := 2 ^ s.params.hw - 1 }
          else s.store.read h) ∧
        (∀ x, x ∈ t.seen ↔ x = s.la2.toNat ∨ x ∈ s.seen) ∧
        t.queue.Perm ({ w := s.la0, k := s.la2.toNat, n := s.nalloc } :: s.queue))

/-- R127, R128: MERGE: LOCKED, EMPTYQ, BADNODE, AFULL, WOVF in order, else the two least entries leave Q, their nodes become
the children of the record at NALLOC (the first extracted the left one), and its entry with key `NSYM + SEQ` goes in. -/
def Obligations.MergeJoinsTheTwoLeastEntries : Prop :=
  OnlyWord .merge 0x30000000#32 ∧ ∀ s : State, s.store.wf = true →
    (s.phase = .built → exec .merge s = .next { s with err := .locked, errs := true, pend := false }) ∧
    (s.phase = .load → s.queue.length < 2 →
      exec .merge s = .next { s with err := .emptyQ, errs := true, pend := false }) ∧
    ∀ (a b : Entry) (q : List Entry), s.phase = .load → s.queue.Perm (a :: b :: q) →
      (∀ x, x ∈ b :: q → ¬ x.Before a) → (∀ x, x ∈ q → ¬ x.Before b) →
      (s.nalloc ≤ a.n ∨ s.nalloc ≤ b.n →
        exec .merge s = .next { s with err := .badNode, errs := true, pend := false }) ∧
      (a.n < s.nalloc → b.n < s.nalloc → s.nalloc = s.params.ncap →
        exec .merge s = .next { s with err := .aFull, errs := true, pend := false }) ∧
      (a.n < s.nalloc → b.n < s.nalloc → s.nalloc ≠ s.params.ncap → 2 ^ 32 ≤ a.w.toNat + b.w.toNat →
        exec .merge s = .next { s with err := .wOvf, errs := true, pend := false }) ∧
      (a.n < s.nalloc → b.n < s.nalloc → s.nalloc ≠ s.params.ncap → a.w.toNat + b.w.toNat < 2 ^ 32 →
        ∃ t, exec .merge s = .next t ∧
          t = { s with
            store := t.store, nalloc := s.nalloc + 1, seq := s.seq + 1, queue := t.queue,
            res0 := a.w + b.w, res1 := BitVec.ofNat 32 (2 ^ s.params.symw + s.seq), res2 := BitVec.ofNat 32 s.nalloc,
            err := .ok, pend := false } ∧
          (a.w + b.w).toNat = a.w.toNat + b.w.toNat ∧
          (∀ h, t.store.read h =
            if h = s.nalloc then { weight := a.w + b.w, symbol := 0, left := a.n, right := b.n } else s.store.read h) ∧
          t.queue.Perm ({ w := a.w + b.w, k := 2 ^ s.params.symw + s.seq, n := s.nalloc } :: q))

/-- R129: BUILD: LOCKED, else merge steps while `|Q| > 1`, each committing on its own. Some chain of `n` of them leads to a
state `u` where the loop ends, and BUILD answers there: the error of the step that fails, with the steps before it kept; the
root, which stays in Q; BADNODE for a root that is not allocated; or, for the empty queue, no tree. -/
def Obligations.BuildRunsMergesThenFixesTheRoot : Prop :=
  OnlyWord .build 0x40000000#32 ∧ ∀ s : State,
    (s.phase = .built → exec .build s = .next { s with err := .locked, errs := true, pend := false }) ∧
    (s.phase = .load → ∃ n u, MergeChain n s u ∧ (u.queue.length ≤ 1 ∨ ∃ x, mergeStep u = .error x)) ∧
    ∀ (n : Nat) (u : State), s.phase = .load → MergeChain n s u →
      (∀ x, 1 < u.queue.length → mergeStep u = .error x →
        exec .build s = .next { u with err := x, errs := true, pend := false }) ∧
      (∀ e, u.queue = [e] → e.n < u.nalloc →
        exec .build s = .next { u with
          root := e.n, cur := e.n, phase := .built, outcnt := 0,
          res0 := e.w, res1 := BitVec.ofNat 32 e.k, res2 := BitVec.ofNat 32 e.n, err := .ok, pend := false }) ∧
      (∀ e, u.queue = [e] → u.nalloc ≤ e.n →
        exec .build s = .next { u with err := .badNode, errs := true, pend := false }) ∧
      (u.queue = [] →
        exec .build s = .next { u with
          root := 2 ^ s.params.hw - 1, cur := 2 ^ s.params.hw - 1, phase := .built, outcnt := 0,
          res0 := 0, res1 := 0, res2 := BitVec.ofNat 32 (2 ^ s.params.hw - 1), err := .ok, pend := false })

/-- R129, R130, R132, R134: a BUILD whose handles are valid, whose records fit and whose weights sum below 2^WW completes:
it makes `|Q| − 1` merges, one entry stays, its node is ROOT and CUR, and RES0 is the sum of all the queue's weights. Only
the records it allocates change. -/
def Obligations.BuildThatFitsEndsWithTheRoot : Prop :=
  ∀ s : State, s.phase = .load → s.queue ≠ [] → (∀ e, e ∈ s.queue → e.n < s.nalloc) →
    s.nalloc + s.queue.length ≤ s.params.ncap + 1 → totalWeight s.queue < 2 ^ 32 →
    ∃ t e, exec .build s = .next t ∧ t.queue = [e] ∧ e.n < t.nalloc ∧ e.w.toNat = totalWeight s.queue ∧
      (2 ≤ s.queue.length → e.n + 1 = t.nalloc ∧ e.k + 1 = 2 ^ s.params.symw + t.seq) ∧
      (s.store.wf = true → ∀ h, h < s.nalloc ∨ t.nalloc ≤ h → t.store.read h = s.store.read h) ∧
      t = { s with
        store := t.store, queue := [e],
        nalloc := s.nalloc + (s.queue.length - 1), seq := s.seq + (s.queue.length - 1),
        root := e.n, cur := e.n, phase := .built, outcnt := 0,
        res0 := e.w, res1 := BitVec.ofNat 32 e.k, res2 := BitVec.ofNat 32 e.n, err := .ok, pend := false }

/-- R134: BUILD always terminates: each merge step leaves one entry less, and from `|Q| = q` BUILD performs some number of
them, at most `q − 1`, with one more node and one more in SEQ each. -/
def Obligations.BuildMakesFewerMergesThanEntries : Prop :=
  (∀ (s u : State) (e : Entry), mergeStep s = .ok (e, u) → u.queue.length + 1 = s.queue.length) ∧
  ∀ s : State, ∃ t n, exec .build s = .next t ∧ n ≤ s.queue.length - 1 ∧ s.queue.length = t.queue.length + n ∧
    t.nalloc = s.nalloc + n ∧ t.seq = s.seq + n ∧ (t.err = .ok → t.queue.length ≤ 1)

/-- R131: NODE_READ: BADNODE unless the full LA2 is below NALLOC, else the record's fields. -/
def Obligations.NodeReadReturnsTheRecord : Prop :=
  OnlyWord .nodeRead 0x70000000#32 ∧ ∀ s : State, s.nalloc ≤ s.params.ncap → s.params.wellFormed = true →
    (s.nalloc ≤ s.la2.toNat → exec .nodeRead s = .next { s with err := .badNode, errs := true, pend := false }) ∧
    (s.la2.toNat < s.nalloc →
      exec .nodeRead s = .next { s with
        res0 := (s.store.read s.la2.toNat).weight,
        res1 := BitVec.ofNat 32 (s.store.read s.la2.toNat).symbol,
        res2 := BitVec.ofNat 16 (s.store.read s.la2.toNat).right ++ BitVec.ofNat 16 (s.store.read s.la2.toNat).left,
        err := .ok, pend := false })

/-- R132: while entries carry the weights of their nodes, every internal node's weight is the sum of its children's, and
every command but PQ_INSERT keeps both. -/
def Obligations.WeightsStayConsistentWithoutInserts : Prop :=
  ∀ (i : Instr) (s t : State), s.Inv → s.WeightPolicy → i ≠ .pqInsert → exec i s = .next t → t.WeightPolicy

/-! ### Decoder (42_decoder.md) -/

/-- R151: DEC_RESET: NOTREE while TREE = 0, else CUR = ROOT, OUTCNT = 0, SYMV = 0. -/
def Obligations.DecResetReturnsToTheRoot : Prop :=
  OnlyWord .decReset 0x80000000#32 ∧ ∀ s : State,
    (s.phase = .built ∧ s.root ≠ 2 ^ s.params.hw - 1 →
      exec .decReset s = .next { s with cur := s.root, outcnt := 0, symv := false, err := .ok, pend := false }) ∧
    (¬ (s.phase = .built ∧ s.root ≠ 2 ^ s.params.hw - 1) →
      exec .decReset s = .next { s with err := .noTree, errs := true, pend := false })

/-- R152: DEC_BIT b, in every case: NOTREE; a move to an internal child; a move to a leaf, which emits; an absent child at a
leaf, which emits without moving; an absent child at an internal node, DECERR. `n` is the record at CUR, `c` its child for
b. Where the invariant holds, the child is absent exactly when ROOT is a leaf. -/
def Obligations.DecBitWalksOneEdge : Prop :=
  OnlyWord (.decBit false) 0x90000000#32 ∧ OnlyWord (.decBit true) 0x90000001#32 ∧
  ∀ (s : State) (b : Bool) (n : Node) (c : Nat), n = s.store.read s.cur → c = (if b then n.right else n.left) →
    (¬ (s.phase = .built ∧ s.root ≠ 2 ^ s.params.hw - 1) →
      exec (.decBit b) s = .next { s with symv := false, err := .noTree, errs := true, pend := false }) ∧
    (s.phase = .built → s.root ≠ 2 ^ s.params.hw - 1 →
      (c ≠ 2 ^ s.params.hw - 1 → (s.store.read c).isLeaf s.params = false →
        exec (.decBit b) s = .next { s with cur := c, symv := false, err := .ok, pend := false }) ∧
      (c ≠ 2 ^ s.params.hw - 1 → (s.store.read c).isLeaf s.params = true →
        exec (.decBit b) s = .next { s with
          res1 := BitVec.ofNat 32 (s.store.read c).symbol, res2 := BitVec.ofNat 32 c, symv := true,
          outcnt := s.outcnt + 1, cur := s.root, err := .ok, pend := false }) ∧
      (c = 2 ^ s.params.hw - 1 → n.isLeaf s.params = true →
        exec (.decBit b) s = .next { s with
          res1 := BitVec.ofNat 32 n.symbol, res2 := BitVec.ofNat 32 s.cur, symv := true,
          outcnt := s.outcnt + 1, cur := s.root, err := .ok, pend := false }) ∧
      (c = 2 ^ s.params.hw - 1 → n.isLeaf s.params = false →
        exec (.decBit b) s = .next { s with symv := false, err := .decErr, errs := true, pend := false }) ∧
      (s.Inv → (c = 2 ^ s.params.hw - 1 ↔ (s.store.read s.root).isLeaf s.params = true)))

/-- R153: when ROOT is a leaf, every DEC_BIT, for either bit, emits its symbol and leaves CUR = ROOT. -/
def Obligations.SingleSymbolTreeEmitsOnEitherBit : Prop :=
  ∀ (s : State) (b : Bool), s.Inv → s.tree = true → (s.store.read s.root).isLeaf s.params = true →
    exec (.decBit b) s = .next { s with
      res1 := BitVec.ofNat 32 (s.store.read s.root).symbol, res2 := BitVec.ofNat 32 s.root, symv := true,
      outcnt := s.outcnt + 1, cur := s.root, err := .ok, pend := false }

/-- R154: where the invariant holds DECERR is never raised, by any command, and a NULL child occurs only at a leaf. -/
def Obligations.DecErrIsNeverRaised : Prop :=
  ∀ s : State, s.Inv →
    (∀ (i : Instr) (t : State), exec i s = .next t → t.err ≠ .decErr) ∧
    (s.tree = true → ∀ b, (s.store.read s.cur).child b = s.params.null → (s.store.read s.cur).isLeaf s.params = true)

/-- R156: feeding the codes of leaves, one after another, from CUR = ROOT emits exactly at the last bit of each code, there the
symbol of its leaf in RES1, adds their number to OUTCNT, and ends with CUR = ROOT and MIDCODE = 0. -/
def Obligations.CodesDecodeToTheirSymbols : Prop :=
  ∀ (s : State) (codes : List (List Bool × Nat)), s.Inv → s.tree = true →
    (s.store.read s.root).isLeaf s.params = false → s.cur = s.root →
    (∀ c, c ∈ codes → s.CodeOf c.1 c.2) →
    emissions (codes.flatMap Prod.fst) s =
      codes.flatMap (fun c =>
        List.replicate (c.1.length - 1) none ++ [some (BitVec.ofNat 32 (s.store.read c.2).symbol)]) ∧
    ∃ t, feedBits (codes.flatMap Prod.fst) s = .next t ∧ t.cur = s.root ∧ t.midcode = false ∧
      t.outcnt = s.outcnt + BitVec.ofNat 32 codes.length

/-- R157: a bit string that stops inside a code emits nothing and leaves CUR at the internal node it reached and MIDCODE = 1. -/
def Obligations.IncompleteCodeLeavesMidcode : Prop :=
  ∀ (s : State) (bits : List Bool) (h : Nat), s.Inv → s.tree = true → s.cur = s.root → bits ≠ [] →
    walkFrom s.params s.store s.root bits = some h → (s.store.read h).isLeaf s.params = false →
    emissions bits s = List.replicate bits.length none ∧
    ∃ t, feedBits bits s = .next t ∧ t.cur = h ∧ h ≠ s.root ∧ t.midcode = true ∧ t.outcnt = s.outcnt ∧
      t.res1 = s.res1 ∧ t.res2 = s.res2 ∧ t.err = .ok

/-- R158: every sequence of bits has a defined result on every tree, none of it an error, and the tree stands. -/
def Obligations.EveryBitStringHasADefinedResult : Prop :=
  ∀ (bits : List Bool) (s : State), s.Inv → s.tree = true →
    ∃ t, feedBits bits s = .next t ∧ (bits ≠ [] → t.err = .ok) ∧ t.Inv ∧ t.tree = true ∧ t.root = s.root ∧
      t.store = s.store ∧ (emissions bits s).length = bits.length ∧
      t.outcnt = s.outcnt + BitVec.ofNat 32 ((emissions bits s).countP Option.isSome)

/-! ### Reset and the invariant -/

/-- R61: the values after reset, and CLEAR, which gives the same values apart from ARG0 to ARG2, OVR and the unobservable
latches and records. -/
def Obligations.ResetAndClearValues : Prop :=
  (State.reset.arg0 = 0 ∧ State.reset.arg1 = 0 ∧ State.reset.arg2 = 0 ∧ State.reset.res0 = 0 ∧ State.reset.res1 = 0 ∧
    State.reset.res2 = 0 ∧ State.reset.statusWord = 0 ∧ Params.word0 State.reset.params = 0x0A090820#32 ∧
    Params.word1 State.reset.params = 0x01FF0100#32 ∧ State.reset.pend = false ∧ State.reset.nalloc = 0 ∧
    State.reset.seq = 0 ∧ State.reset.queue = [] ∧ State.reset.root = 0x1FF ∧ State.reset.cur = 0x1FF ∧
    State.reset.outcnt = 0 ∧ State.reset.seen = []) ∧
  ∀ s : State, exec .clear s = .next { State.resetWith s.params with
    arg0 := s.arg0, arg1 := s.arg1, arg2 := s.arg2, ovr := s.ovr, store := s.store,
    lcmd := s.lcmd, la0 := s.la0, la1 := s.la1, la2 := s.la2,
    prog := s.prog, turns := s.turns, reads := s.reads, draws := s.draws }

/-- R200: asserting reset, at any time and with a command in flight too, puts every observable piece of state into its value
of R61, the parameters staying the constants they are; a command in flight is abandoned. -/
def Obligations.ResetInputGivesTheResetState : Prop :=
  ∀ (s : State) (ts : List Turn), s.turns = .reset :: ts →
    ∃ t, step s = .next t ∧ t.pend = false ∧ t.statusWord = 0 ∧ t.params = s.params ∧
      t.arg0 = 0 ∧ t.arg1 = 0 ∧ t.arg2 = 0 ∧ t.res0 = 0 ∧ t.res1 = 0 ∧ t.res2 = 0 ∧
      t.nalloc = 0 ∧ t.seq = 0 ∧ t.queue = [] ∧ t.seen = [] ∧ t.outcnt = 0 ∧
      t.root = 2 ^ s.params.hw - 1 ∧ t.cur = 2 ^ s.params.hw - 1

/-- The model's choice (log entry 5, and log entry 3 for the draw count), no rule of the spec: the reset input leaves the host
alone, with its operations still to come, the turns after this one, its record and the draw count. -/
def Obligations.ResetInputLeavesTheHostAlone : Prop :=
  ∀ (s : State) (ts : List Turn), s.turns = .reset :: ts →
    ∃ t, step s = .next t ∧ t.prog = s.prog ∧ t.turns = ts ∧ t.reads = s.reads ∧ t.draws = s.draws

/-- The invariant holds after reset, for every parameter choice that R7 admits. -/
def Obligations.InvariantHoldsAtReset : Prop :=
  State.reset.Inv ∧ ∀ p : Params, p.wellFormed = true → (State.resetWith p).Inv

/-- R47 to R50, R52 to R55, R154, R155: every step keeps the invariant: host access, engine step or reset, from every state
where it holds. -/
def Obligations.EveryStepKeepsTheInvariant : Prop :=
  ∀ s t : State, s.Inv → step s = .next t → t.Inv
end

