-- ==== Sys2Proof/Laws/State.lean ====
section
/-! SUPPORT. The fields of the state after each named update: one lemma per field per update. -/

namespace Sys2Proof.Machine

variable (s : State)

/-! ### complete -/

@[simp] theorem State.complete_params : s.complete.params = s.params := rfl
@[simp] theorem State.complete_arg0 : s.complete.arg0 = s.arg0 := rfl
@[simp] theorem State.complete_arg1 : s.complete.arg1 = s.arg1 := rfl
@[simp] theorem State.complete_arg2 : s.complete.arg2 = s.arg2 := rfl
@[simp] theorem State.complete_res0 : s.complete.res0 = s.res0 := rfl
@[simp] theorem State.complete_res1 : s.complete.res1 = s.res1 := rfl
@[simp] theorem State.complete_res2 : s.complete.res2 = s.res2 := rfl
@[simp] theorem State.complete_phase : s.complete.phase = s.phase := rfl
@[simp] theorem State.complete_err : s.complete.err = .ok := rfl
@[simp] theorem State.complete_errs : s.complete.errs = s.errs := rfl
@[simp] theorem State.complete_ovr : s.complete.ovr = s.ovr := rfl
@[simp] theorem State.complete_symv : s.complete.symv = s.symv := rfl
@[simp] theorem State.complete_store : s.complete.store = s.store := rfl
@[simp] theorem State.complete_nalloc : s.complete.nalloc = s.nalloc := rfl
@[simp] theorem State.complete_seq : s.complete.seq = s.seq := rfl
@[simp] theorem State.complete_queue : s.complete.queue = s.queue := rfl
@[simp] theorem State.complete_root : s.complete.root = s.root := rfl
@[simp] theorem State.complete_cur : s.complete.cur = s.cur := rfl
@[simp] theorem State.complete_outcnt : s.complete.outcnt = s.outcnt := rfl
@[simp] theorem State.complete_seen : s.complete.seen = s.seen := rfl
@[simp] theorem State.complete_pend : s.complete.pend = false := rfl
@[simp] theorem State.complete_lcmd : s.complete.lcmd = s.lcmd := rfl
@[simp] theorem State.complete_la0 : s.complete.la0 = s.la0 := rfl
@[simp] theorem State.complete_la1 : s.complete.la1 = s.la1 := rfl
@[simp] theorem State.complete_la2 : s.complete.la2 = s.la2 := rfl
@[simp] theorem State.complete_prog : s.complete.prog = s.prog := rfl
@[simp] theorem State.complete_turns : s.complete.turns = s.turns := rfl
@[simp] theorem State.complete_reads : s.complete.reads = s.reads := rfl
@[simp] theorem State.complete_draws : s.complete.draws = s.draws := rfl

/-! ### raiseErr -/

@[simp] theorem State.raiseErr_params (e : ErrCode) : (s.raiseErr e).params = s.params := rfl
@[simp] theorem State.raiseErr_arg0 (e : ErrCode) : (s.raiseErr e).arg0 = s.arg0 := rfl
@[simp] theorem State.raiseErr_arg1 (e : ErrCode) : (s.raiseErr e).arg1 = s.arg1 := rfl
@[simp] theorem State.raiseErr_arg2 (e : ErrCode) : (s.raiseErr e).arg2 = s.arg2 := rfl
@[simp] theorem State.raiseErr_res0 (e : ErrCode) : (s.raiseErr e).res0 = s.res0 := rfl
@[simp] theorem State.raiseErr_res1 (e : ErrCode) : (s.raiseErr e).res1 = s.res1 := rfl
@[simp] theorem State.raiseErr_res2 (e : ErrCode) : (s.raiseErr e).res2 = s.res2 := rfl
@[simp] theorem State.raiseErr_phase (e : ErrCode) : (s.raiseErr e).phase = s.phase := rfl
@[simp] theorem State.raiseErr_err (e : ErrCode) : (s.raiseErr e).err = e := rfl
@[simp] theorem State.raiseErr_errs (e : ErrCode) : (s.raiseErr e).errs = true := rfl
@[simp] theorem State.raiseErr_ovr (e : ErrCode) : (s.raiseErr e).ovr = s.ovr := rfl
@[simp] theorem State.raiseErr_symv (e : ErrCode) : (s.raiseErr e).symv = s.symv := rfl
@[simp] theorem State.raiseErr_store (e : ErrCode) : (s.raiseErr e).store = s.store := rfl
@[simp] theorem State.raiseErr_nalloc (e : ErrCode) : (s.raiseErr e).nalloc = s.nalloc := rfl
@[simp] theorem State.raiseErr_seq (e : ErrCode) : (s.raiseErr e).seq = s.seq := rfl
@[simp] theorem State.raiseErr_queue (e : ErrCode) : (s.raiseErr e).queue = s.queue := rfl
@[simp] theorem State.raiseErr_root (e : ErrCode) : (s.raiseErr e).root = s.root := rfl
@[simp] theorem State.raiseErr_cur (e : ErrCode) : (s.raiseErr e).cur = s.cur := rfl
@[simp] theorem State.raiseErr_outcnt (e : ErrCode) : (s.raiseErr e).outcnt = s.outcnt := rfl
@[simp] theorem State.raiseErr_seen (e : ErrCode) : (s.raiseErr e).seen = s.seen := rfl
@[simp] theorem State.raiseErr_pend (e : ErrCode) : (s.raiseErr e).pend = false := rfl
@[simp] theorem State.raiseErr_lcmd (e : ErrCode) : (s.raiseErr e).lcmd = s.lcmd := rfl
@[simp] theorem State.raiseErr_la0 (e : ErrCode) : (s.raiseErr e).la0 = s.la0 := rfl
@[simp] theorem State.raiseErr_la1 (e : ErrCode) : (s.raiseErr e).la1 = s.la1 := rfl
@[simp] theorem State.raiseErr_la2 (e : ErrCode) : (s.raiseErr e).la2 = s.la2 := rfl
@[simp] theorem State.raiseErr_prog (e : ErrCode) : (s.raiseErr e).prog = s.prog := rfl
@[simp] theorem State.raiseErr_turns (e : ErrCode) : (s.raiseErr e).turns = s.turns := rfl
@[simp] theorem State.raiseErr_reads (e : ErrCode) : (s.raiseErr e).reads = s.reads := rfl
@[simp] theorem State.raiseErr_draws (e : ErrCode) : (s.raiseErr e).draws = s.draws := rfl

/-! ### setResults -/

@[simp] theorem State.setResults_params (a b c : Word) : (s.setResults a b c).params = s.params := rfl
@[simp] theorem State.setResults_arg0 (a b c : Word) : (s.setResults a b c).arg0 = s.arg0 := rfl
@[simp] theorem State.setResults_arg1 (a b c : Word) : (s.setResults a b c).arg1 = s.arg1 := rfl
@[simp] theorem State.setResults_arg2 (a b c : Word) : (s.setResults a b c).arg2 = s.arg2 := rfl
@[simp] theorem State.setResults_res0 (a b c : Word) : (s.setResults a b c).res0 = a := rfl
@[simp] theorem State.setResults_res1 (a b c : Word) : (s.setResults a b c).res1 = b := rfl
@[simp] theorem State.setResults_res2 (a b c : Word) : (s.setResults a b c).res2 = c := rfl
@[simp] theorem State.setResults_phase (a b c : Word) : (s.setResults a b c).phase = s.phase := rfl
@[simp] theorem State.setResults_err (a b c : Word) : (s.setResults a b c).err = s.err := rfl
@[simp] theorem State.setResults_errs (a b c : Word) : (s.setResults a b c).errs = s.errs := rfl
@[simp] theorem State.setResults_ovr (a b c : Word) : (s.setResults a b c).ovr = s.ovr := rfl
@[simp] theorem State.setResults_symv (a b c : Word) : (s.setResults a b c).symv = s.symv := rfl
@[simp] theorem State.setResults_store (a b c : Word) : (s.setResults a b c).store = s.store := rfl
@[simp] theorem State.setResults_nalloc (a b c : Word) : (s.setResults a b c).nalloc = s.nalloc := rfl
@[simp] theorem State.setResults_seq (a b c : Word) : (s.setResults a b c).seq = s.seq := rfl
@[simp] theorem State.setResults_queue (a b c : Word) : (s.setResults a b c).queue = s.queue := rfl
@[simp] theorem State.setResults_root (a b c : Word) : (s.setResults a b c).root = s.root := rfl
@[simp] theorem State.setResults_cur (a b c : Word) : (s.setResults a b c).cur = s.cur := rfl
@[simp] theorem State.setResults_outcnt (a b c : Word) : (s.setResults a b c).outcnt = s.outcnt := rfl
@[simp] theorem State.setResults_seen (a b c : Word) : (s.setResults a b c).seen = s.seen := rfl
@[simp] theorem State.setResults_pend (a b c : Word) : (s.setResults a b c).pend = s.pend := rfl
@[simp] theorem State.setResults_lcmd (a b c : Word) : (s.setResults a b c).lcmd = s.lcmd := rfl
@[simp] theorem State.setResults_la0 (a b c : Word) : (s.setResults a b c).la0 = s.la0 := rfl
@[simp] theorem State.setResults_la1 (a b c : Word) : (s.setResults a b c).la1 = s.la1 := rfl
@[simp] theorem State.setResults_la2 (a b c : Word) : (s.setResults a b c).la2 = s.la2 := rfl
@[simp] theorem State.setResults_prog (a b c : Word) : (s.setResults a b c).prog = s.prog := rfl
@[simp] theorem State.setResults_turns (a b c : Word) : (s.setResults a b c).turns = s.turns := rfl
@[simp] theorem State.setResults_reads (a b c : Word) : (s.setResults a b c).reads = s.reads := rfl
@[simp] theorem State.setResults_draws (a b c : Word) : (s.setResults a b c).draws = s.draws := rfl

/-! ### allocate -/

@[simp] theorem State.allocate_params (n : Node) : (s.allocate n).params = s.params := rfl
@[simp] theorem State.allocate_arg0 (n : Node) : (s.allocate n).arg0 = s.arg0 := rfl
@[simp] theorem State.allocate_arg1 (n : Node) : (s.allocate n).arg1 = s.arg1 := rfl
@[simp] theorem State.allocate_arg2 (n : Node) : (s.allocate n).arg2 = s.arg2 := rfl
@[simp] theorem State.allocate_res0 (n : Node) : (s.allocate n).res0 = s.res0 := rfl
@[simp] theorem State.allocate_res1 (n : Node) : (s.allocate n).res1 = s.res1 := rfl
@[simp] theorem State.allocate_res2 (n : Node) : (s.allocate n).res2 = s.res2 := rfl
@[simp] theorem State.allocate_phase (n : Node) : (s.allocate n).phase = s.phase := rfl
@[simp] theorem State.allocate_err (n : Node) : (s.allocate n).err = s.err := rfl
@[simp] theorem State.allocate_errs (n : Node) : (s.allocate n).errs = s.errs := rfl
@[simp] theorem State.allocate_ovr (n : Node) : (s.allocate n).ovr = s.ovr := rfl
@[simp] theorem State.allocate_symv (n : Node) : (s.allocate n).symv = s.symv := rfl
@[simp] theorem State.allocate_store (n : Node) : (s.allocate n).store = s.store.write s.nalloc n := rfl
@[simp] theorem State.allocate_nalloc (n : Node) : (s.allocate n).nalloc = s.nalloc + 1 := rfl
@[simp] theorem State.allocate_seq (n : Node) : (s.allocate n).seq = s.seq := rfl
@[simp] theorem State.allocate_queue (n : Node) : (s.allocate n).queue = s.queue := rfl
@[simp] theorem State.allocate_root (n : Node) : (s.allocate n).root = s.root := rfl
@[simp] theorem State.allocate_cur (n : Node) : (s.allocate n).cur = s.cur := rfl
@[simp] theorem State.allocate_outcnt (n : Node) : (s.allocate n).outcnt = s.outcnt := rfl
@[simp] theorem State.allocate_seen (n : Node) : (s.allocate n).seen = s.seen := rfl
@[simp] theorem State.allocate_pend (n : Node) : (s.allocate n).pend = s.pend := rfl
@[simp] theorem State.allocate_lcmd (n : Node) : (s.allocate n).lcmd = s.lcmd := rfl
@[simp] theorem State.allocate_la0 (n : Node) : (s.allocate n).la0 = s.la0 := rfl
@[simp] theorem State.allocate_la1 (n : Node) : (s.allocate n).la1 = s.la1 := rfl
@[simp] theorem State.allocate_la2 (n : Node) : (s.allocate n).la2 = s.la2 := rfl
@[simp] theorem State.allocate_prog (n : Node) : (s.allocate n).prog = s.prog := rfl
@[simp] theorem State.allocate_turns (n : Node) : (s.allocate n).turns = s.turns := rfl
@[simp] theorem State.allocate_reads (n : Node) : (s.allocate n).reads = s.reads := rfl
@[simp] theorem State.allocate_draws (n : Node) : (s.allocate n).draws = s.draws := rfl

/-! ### enqueue -/

@[simp] theorem State.enqueue_params (e : Entry) : (s.enqueue e).params = s.params := rfl
@[simp] theorem State.enqueue_arg0 (e : Entry) : (s.enqueue e).arg0 = s.arg0 := rfl
@[simp] theorem State.enqueue_arg1 (e : Entry) : (s.enqueue e).arg1 = s.arg1 := rfl
@[simp] theorem State.enqueue_arg2 (e : Entry) : (s.enqueue e).arg2 = s.arg2 := rfl
@[simp] theorem State.enqueue_res0 (e : Entry) : (s.enqueue e).res0 = s.res0 := rfl
@[simp] theorem State.enqueue_res1 (e : Entry) : (s.enqueue e).res1 = s.res1 := rfl
@[simp] theorem State.enqueue_res2 (e : Entry) : (s.enqueue e).res2 = s.res2 := rfl
@[simp] theorem State.enqueue_phase (e : Entry) : (s.enqueue e).phase = s.phase := rfl
@[simp] theorem State.enqueue_err (e : Entry) : (s.enqueue e).err = s.err := rfl
@[simp] theorem State.enqueue_errs (e : Entry) : (s.enqueue e).errs = s.errs := rfl
@[simp] theorem State.enqueue_ovr (e : Entry) : (s.enqueue e).ovr = s.ovr := rfl
@[simp] theorem State.enqueue_symv (e : Entry) : (s.enqueue e).symv = s.symv := rfl
@[simp] theorem State.enqueue_store (e : Entry) : (s.enqueue e).store = s.store := rfl
@[simp] theorem State.enqueue_nalloc (e : Entry) : (s.enqueue e).nalloc = s.nalloc := rfl
@[simp] theorem State.enqueue_seq (e : Entry) : (s.enqueue e).seq = s.seq := rfl
@[simp] theorem State.enqueue_queue (e : Entry) : (s.enqueue e).queue = insertEntry e s.queue := rfl
@[simp] theorem State.enqueue_root (e : Entry) : (s.enqueue e).root = s.root := rfl
@[simp] theorem State.enqueue_cur (e : Entry) : (s.enqueue e).cur = s.cur := rfl
@[simp] theorem State.enqueue_outcnt (e : Entry) : (s.enqueue e).outcnt = s.outcnt := rfl
@[simp] theorem State.enqueue_seen (e : Entry) : (s.enqueue e).seen = s.seen := rfl
@[simp] theorem State.enqueue_pend (e : Entry) : (s.enqueue e).pend = s.pend := rfl
@[simp] theorem State.enqueue_lcmd (e : Entry) : (s.enqueue e).lcmd = s.lcmd := rfl
@[simp] theorem State.enqueue_la0 (e : Entry) : (s.enqueue e).la0 = s.la0 := rfl
@[simp] theorem State.enqueue_la1 (e : Entry) : (s.enqueue e).la1 = s.la1 := rfl
@[simp] theorem State.enqueue_la2 (e : Entry) : (s.enqueue e).la2 = s.la2 := rfl
@[simp] theorem State.enqueue_prog (e : Entry) : (s.enqueue e).prog = s.prog := rfl
@[simp] theorem State.enqueue_turns (e : Entry) : (s.enqueue e).turns = s.turns := rfl
@[simp] theorem State.enqueue_reads (e : Entry) : (s.enqueue e).reads = s.reads := rfl
@[simp] theorem State.enqueue_draws (e : Entry) : (s.enqueue e).draws = s.draws := rfl

/-! ### markSeen -/

@[simp] theorem State.markSeen_params (x : Nat) : (s.markSeen x).params = s.params := rfl
@[simp] theorem State.markSeen_arg0 (x : Nat) : (s.markSeen x).arg0 = s.arg0 := rfl
@[simp] theorem State.markSeen_arg1 (x : Nat) : (s.markSeen x).arg1 = s.arg1 := rfl
@[simp] theorem State.markSeen_arg2 (x : Nat) : (s.markSeen x).arg2 = s.arg2 := rfl
@[simp] theorem State.markSeen_res0 (x : Nat) : (s.markSeen x).res0 = s.res0 := rfl
@[simp] theorem State.markSeen_res1 (x : Nat) : (s.markSeen x).res1 = s.res1 := rfl
@[simp] theorem State.markSeen_res2 (x : Nat) : (s.markSeen x).res2 = s.res2 := rfl
@[simp] theorem State.markSeen_phase (x : Nat) : (s.markSeen x).phase = s.phase := rfl
@[simp] theorem State.markSeen_err (x : Nat) : (s.markSeen x).err = s.err := rfl
@[simp] theorem State.markSeen_errs (x : Nat) : (s.markSeen x).errs = s.errs := rfl
@[simp] theorem State.markSeen_ovr (x : Nat) : (s.markSeen x).ovr = s.ovr := rfl
@[simp] theorem State.markSeen_symv (x : Nat) : (s.markSeen x).symv = s.symv := rfl
@[simp] theorem State.markSeen_store (x : Nat) : (s.markSeen x).store = s.store := rfl
@[simp] theorem State.markSeen_nalloc (x : Nat) : (s.markSeen x).nalloc = s.nalloc := rfl
@[simp] theorem State.markSeen_seq (x : Nat) : (s.markSeen x).seq = s.seq := rfl
@[simp] theorem State.markSeen_queue (x : Nat) : (s.markSeen x).queue = s.queue := rfl
@[simp] theorem State.markSeen_root (x : Nat) : (s.markSeen x).root = s.root := rfl
@[simp] theorem State.markSeen_cur (x : Nat) : (s.markSeen x).cur = s.cur := rfl
@[simp] theorem State.markSeen_outcnt (x : Nat) : (s.markSeen x).outcnt = s.outcnt := rfl
@[simp] theorem State.markSeen_seen (x : Nat) : (s.markSeen x).seen = insertSymbol x s.seen := rfl
@[simp] theorem State.markSeen_pend (x : Nat) : (s.markSeen x).pend = s.pend := rfl
@[simp] theorem State.markSeen_lcmd (x : Nat) : (s.markSeen x).lcmd = s.lcmd := rfl
@[simp] theorem State.markSeen_la0 (x : Nat) : (s.markSeen x).la0 = s.la0 := rfl
@[simp] theorem State.markSeen_la1 (x : Nat) : (s.markSeen x).la1 = s.la1 := rfl
@[simp] theorem State.markSeen_la2 (x : Nat) : (s.markSeen x).la2 = s.la2 := rfl
@[simp] theorem State.markSeen_prog (x : Nat) : (s.markSeen x).prog = s.prog := rfl
@[simp] theorem State.markSeen_turns (x : Nat) : (s.markSeen x).turns = s.turns := rfl
@[simp] theorem State.markSeen_reads (x : Nat) : (s.markSeen x).reads = s.reads := rfl
@[simp] theorem State.markSeen_draws (x : Nat) : (s.markSeen x).draws = s.draws := rfl

/-! ### fixRoot -/

@[simp] theorem State.fixRoot_params (r : Nat) (a b c : Word) : (s.fixRoot r a b c).params = s.params := rfl
@[simp] theorem State.fixRoot_arg0 (r : Nat) (a b c : Word) : (s.fixRoot r a b c).arg0 = s.arg0 := rfl
@[simp] theorem State.fixRoot_arg1 (r : Nat) (a b c : Word) : (s.fixRoot r a b c).arg1 = s.arg1 := rfl
@[simp] theorem State.fixRoot_arg2 (r : Nat) (a b c : Word) : (s.fixRoot r a b c).arg2 = s.arg2 := rfl
@[simp] theorem State.fixRoot_res0 (r : Nat) (a b c : Word) : (s.fixRoot r a b c).res0 = a := rfl
@[simp] theorem State.fixRoot_res1 (r : Nat) (a b c : Word) : (s.fixRoot r a b c).res1 = b := rfl
@[simp] theorem State.fixRoot_res2 (r : Nat) (a b c : Word) : (s.fixRoot r a b c).res2 = c := rfl
@[simp] theorem State.fixRoot_phase (r : Nat) (a b c : Word) : (s.fixRoot r a b c).phase = .built := rfl
@[simp] theorem State.fixRoot_err (r : Nat) (a b c : Word) : (s.fixRoot r a b c).err = s.err := rfl
@[simp] theorem State.fixRoot_errs (r : Nat) (a b c : Word) : (s.fixRoot r a b c).errs = s.errs := rfl
@[simp] theorem State.fixRoot_ovr (r : Nat) (a b c : Word) : (s.fixRoot r a b c).ovr = s.ovr := rfl
@[simp] theorem State.fixRoot_symv (r : Nat) (a b c : Word) : (s.fixRoot r a b c).symv = s.symv := rfl
@[simp] theorem State.fixRoot_store (r : Nat) (a b c : Word) : (s.fixRoot r a b c).store = s.store := rfl
@[simp] theorem State.fixRoot_nalloc (r : Nat) (a b c : Word) : (s.fixRoot r a b c).nalloc = s.nalloc := rfl
@[simp] theorem State.fixRoot_seq (r : Nat) (a b c : Word) : (s.fixRoot r a b c).seq = s.seq := rfl
@[simp] theorem State.fixRoot_queue (r : Nat) (a b c : Word) : (s.fixRoot r a b c).queue = s.queue := rfl
@[simp] theorem State.fixRoot_root (r : Nat) (a b c : Word) : (s.fixRoot r a b c).root = r := rfl
@[simp] theorem State.fixRoot_cur (r : Nat) (a b c : Word) : (s.fixRoot r a b c).cur = r := rfl
@[simp] theorem State.fixRoot_outcnt (r : Nat) (a b c : Word) : (s.fixRoot r a b c).outcnt = 0 := rfl
@[simp] theorem State.fixRoot_seen (r : Nat) (a b c : Word) : (s.fixRoot r a b c).seen = s.seen := rfl
@[simp] theorem State.fixRoot_pend (r : Nat) (a b c : Word) : (s.fixRoot r a b c).pend = s.pend := rfl
@[simp] theorem State.fixRoot_lcmd (r : Nat) (a b c : Word) : (s.fixRoot r a b c).lcmd = s.lcmd := rfl
@[simp] theorem State.fixRoot_la0 (r : Nat) (a b c : Word) : (s.fixRoot r a b c).la0 = s.la0 := rfl
@[simp] theorem State.fixRoot_la1 (r : Nat) (a b c : Word) : (s.fixRoot r a b c).la1 = s.la1 := rfl
@[simp] theorem State.fixRoot_la2 (r : Nat) (a b c : Word) : (s.fixRoot r a b c).la2 = s.la2 := rfl
@[simp] theorem State.fixRoot_prog (r : Nat) (a b c : Word) : (s.fixRoot r a b c).prog = s.prog := rfl
@[simp] theorem State.fixRoot_turns (r : Nat) (a b c : Word) : (s.fixRoot r a b c).turns = s.turns := rfl
@[simp] theorem State.fixRoot_reads (r : Nat) (a b c : Word) : (s.fixRoot r a b c).reads = s.reads := rfl
@[simp] theorem State.fixRoot_draws (r : Nat) (a b c : Word) : (s.fixRoot r a b c).draws = s.draws := rfl

/-! ### clearEngine -/

@[simp] theorem State.clearEngine_params : s.clearEngine.params = s.params := rfl
@[simp] theorem State.clearEngine_arg0 : s.clearEngine.arg0 = s.arg0 := rfl
@[simp] theorem State.clearEngine_arg1 : s.clearEngine.arg1 = s.arg1 := rfl
@[simp] theorem State.clearEngine_arg2 : s.clearEngine.arg2 = s.arg2 := rfl
@[simp] theorem State.clearEngine_res0 : s.clearEngine.res0 = 0 := rfl
@[simp] theorem State.clearEngine_res1 : s.clearEngine.res1 = 0 := rfl
@[simp] theorem State.clearEngine_res2 : s.clearEngine.res2 = 0 := rfl
@[simp] theorem State.clearEngine_phase : s.clearEngine.phase = .load := rfl
@[simp] theorem State.clearEngine_err : s.clearEngine.err = s.err := rfl
@[simp] theorem State.clearEngine_errs : s.clearEngine.errs = false := rfl
@[simp] theorem State.clearEngine_ovr : s.clearEngine.ovr = s.ovr := rfl
@[simp] theorem State.clearEngine_symv : s.clearEngine.symv = false := rfl
@[simp] theorem State.clearEngine_store : s.clearEngine.store = s.store := rfl
@[simp] theorem State.clearEngine_nalloc : s.clearEngine.nalloc = 0 := rfl
@[simp] theorem State.clearEngine_seq : s.clearEngine.seq = 0 := rfl
@[simp] theorem State.clearEngine_queue : s.clearEngine.queue = [] := rfl
@[simp] theorem State.clearEngine_root : s.clearEngine.root = s.params.null := rfl
@[simp] theorem State.clearEngine_cur : s.clearEngine.cur = s.params.null := rfl
@[simp] theorem State.clearEngine_outcnt : s.clearEngine.outcnt = 0 := rfl
@[simp] theorem State.clearEngine_seen : s.clearEngine.seen = [] := rfl
@[simp] theorem State.clearEngine_pend : s.clearEngine.pend = s.pend := rfl
@[simp] theorem State.clearEngine_lcmd : s.clearEngine.lcmd = s.lcmd := rfl
@[simp] theorem State.clearEngine_la0 : s.clearEngine.la0 = s.la0 := rfl
@[simp] theorem State.clearEngine_la1 : s.clearEngine.la1 = s.la1 := rfl
@[simp] theorem State.clearEngine_la2 : s.clearEngine.la2 = s.la2 := rfl
@[simp] theorem State.clearEngine_prog : s.clearEngine.prog = s.prog := rfl
@[simp] theorem State.clearEngine_turns : s.clearEngine.turns = s.turns := rfl
@[simp] theorem State.clearEngine_reads : s.clearEngine.reads = s.reads := rfl
@[simp] theorem State.clearEngine_draws : s.clearEngine.draws = s.draws := rfl

/-! ### acceptCmd -/

@[simp] theorem State.acceptCmd_params (v : Word) : (s.acceptCmd v).params = s.params := rfl
@[simp] theorem State.acceptCmd_arg0 (v : Word) : (s.acceptCmd v).arg0 = s.arg0 := rfl
@[simp] theorem State.acceptCmd_arg1 (v : Word) : (s.acceptCmd v).arg1 = s.arg1 := rfl
@[simp] theorem State.acceptCmd_arg2 (v : Word) : (s.acceptCmd v).arg2 = s.arg2 := rfl
@[simp] theorem State.acceptCmd_res0 (v : Word) : (s.acceptCmd v).res0 = s.res0 := rfl
@[simp] theorem State.acceptCmd_res1 (v : Word) : (s.acceptCmd v).res1 = s.res1 := rfl
@[simp] theorem State.acceptCmd_res2 (v : Word) : (s.acceptCmd v).res2 = s.res2 := rfl
@[simp] theorem State.acceptCmd_phase (v : Word) : (s.acceptCmd v).phase = s.phase := rfl
@[simp] theorem State.acceptCmd_err (v : Word) : (s.acceptCmd v).err = s.err := rfl
@[simp] theorem State.acceptCmd_errs (v : Word) : (s.acceptCmd v).errs = s.errs := rfl
@[simp] theorem State.acceptCmd_ovr (v : Word) : (s.acceptCmd v).ovr = s.ovr := rfl
@[simp] theorem State.acceptCmd_symv (v : Word) : (s.acceptCmd v).symv = s.symv := rfl
@[simp] theorem State.acceptCmd_store (v : Word) : (s.acceptCmd v).store = s.store := rfl
@[simp] theorem State.acceptCmd_nalloc (v : Word) : (s.acceptCmd v).nalloc = s.nalloc := rfl
@[simp] theorem State.acceptCmd_seq (v : Word) : (s.acceptCmd v).seq = s.seq := rfl
@[simp] theorem State.acceptCmd_queue (v : Word) : (s.acceptCmd v).queue = s.queue := rfl
@[simp] theorem State.acceptCmd_root (v : Word) : (s.acceptCmd v).root = s.root := rfl
@[simp] theorem State.acceptCmd_cur (v : Word) : (s.acceptCmd v).cur = s.cur := rfl
@[simp] theorem State.acceptCmd_outcnt (v : Word) : (s.acceptCmd v).outcnt = s.outcnt := rfl
@[simp] theorem State.acceptCmd_seen (v : Word) : (s.acceptCmd v).seen = s.seen := rfl
@[simp] theorem State.acceptCmd_pend (v : Word) : (s.acceptCmd v).pend = true := rfl
@[simp] theorem State.acceptCmd_lcmd (v : Word) : (s.acceptCmd v).lcmd = v := rfl
@[simp] theorem State.acceptCmd_la0 (v : Word) : (s.acceptCmd v).la0 = s.arg0 := rfl
@[simp] theorem State.acceptCmd_la1 (v : Word) : (s.acceptCmd v).la1 = s.arg1 := rfl
@[simp] theorem State.acceptCmd_la2 (v : Word) : (s.acceptCmd v).la2 = s.arg2 := rfl
@[simp] theorem State.acceptCmd_prog (v : Word) : (s.acceptCmd v).prog = s.prog := rfl
@[simp] theorem State.acceptCmd_turns (v : Word) : (s.acceptCmd v).turns = s.turns := rfl
@[simp] theorem State.acceptCmd_reads (v : Word) : (s.acceptCmd v).reads = s.reads := rfl
@[simp] theorem State.acceptCmd_draws (v : Word) : (s.acceptCmd v).draws = s.draws := rfl

/-! ### drawn -/

@[simp] theorem State.drawn_params : s.drawn.params = s.params := rfl
@[simp] theorem State.drawn_arg0 : s.drawn.arg0 = s.arg0 := rfl
@[simp] theorem State.drawn_arg1 : s.drawn.arg1 = s.arg1 := rfl
@[simp] theorem State.drawn_arg2 : s.drawn.arg2 = s.arg2 := rfl
@[simp] theorem State.drawn_res0 : s.drawn.res0 = s.res0 := rfl
@[simp] theorem State.drawn_res1 : s.drawn.res1 = s.res1 := rfl
@[simp] theorem State.drawn_res2 : s.drawn.res2 = s.res2 := rfl
@[simp] theorem State.drawn_phase : s.drawn.phase = s.phase := rfl
@[simp] theorem State.drawn_err : s.drawn.err = s.err := rfl
@[simp] theorem State.drawn_errs : s.drawn.errs = s.errs := rfl
@[simp] theorem State.drawn_ovr : s.drawn.ovr = s.ovr := rfl
@[simp] theorem State.drawn_symv : s.drawn.symv = s.symv := rfl
@[simp] theorem State.drawn_store : s.drawn.store = s.store := rfl
@[simp] theorem State.drawn_nalloc : s.drawn.nalloc = s.nalloc := rfl
@[simp] theorem State.drawn_seq : s.drawn.seq = s.seq := rfl
@[simp] theorem State.drawn_queue : s.drawn.queue = s.queue := rfl
@[simp] theorem State.drawn_root : s.drawn.root = s.root := rfl
@[simp] theorem State.drawn_cur : s.drawn.cur = s.cur := rfl
@[simp] theorem State.drawn_outcnt : s.drawn.outcnt = s.outcnt := rfl
@[simp] theorem State.drawn_seen : s.drawn.seen = s.seen := rfl
@[simp] theorem State.drawn_pend : s.drawn.pend = s.pend := rfl
@[simp] theorem State.drawn_lcmd : s.drawn.lcmd = s.lcmd := rfl
@[simp] theorem State.drawn_la0 : s.drawn.la0 = s.la0 := rfl
@[simp] theorem State.drawn_la1 : s.drawn.la1 = s.la1 := rfl
@[simp] theorem State.drawn_la2 : s.drawn.la2 = s.la2 := rfl
@[simp] theorem State.drawn_prog : s.drawn.prog = s.prog := rfl
@[simp] theorem State.drawn_turns : s.drawn.turns = s.turns := rfl
@[simp] theorem State.drawn_reads : s.drawn.reads = s.reads := rfl
@[simp] theorem State.drawn_draws : s.drawn.draws = s.draws + 1 := rfl

/-! ### recordRead -/

@[simp] theorem State.recordRead_params (r : Reg) (v : Word) : (s.recordRead r v).params = s.params := rfl
@[simp] theorem State.recordRead_arg0 (r : Reg) (v : Word) : (s.recordRead r v).arg0 = s.arg0 := rfl
@[simp] theorem State.recordRead_arg1 (r : Reg) (v : Word) : (s.recordRead r v).arg1 = s.arg1 := rfl
@[simp] theorem State.recordRead_arg2 (r : Reg) (v : Word) : (s.recordRead r v).arg2 = s.arg2 := rfl
@[simp] theorem State.recordRead_res0 (r : Reg) (v : Word) : (s.recordRead r v).res0 = s.res0 := rfl
@[simp] theorem State.recordRead_res1 (r : Reg) (v : Word) : (s.recordRead r v).res1 = s.res1 := rfl
@[simp] theorem State.recordRead_res2 (r : Reg) (v : Word) : (s.recordRead r v).res2 = s.res2 := rfl
@[simp] theorem State.recordRead_phase (r : Reg) (v : Word) : (s.recordRead r v).phase = s.phase := rfl
@[simp] theorem State.recordRead_err (r : Reg) (v : Word) : (s.recordRead r v).err = s.err := rfl
@[simp] theorem State.recordRead_errs (r : Reg) (v : Word) : (s.recordRead r v).errs = s.errs := rfl
@[simp] theorem State.recordRead_ovr (r : Reg) (v : Word) : (s.recordRead r v).ovr = s.ovr := rfl
@[simp] theorem State.recordRead_symv (r : Reg) (v : Word) : (s.recordRead r v).symv = s.symv := rfl
@[simp] theorem State.recordRead_store (r : Reg) (v : Word) : (s.recordRead r v).store = s.store := rfl
@[simp] theorem State.recordRead_nalloc (r : Reg) (v : Word) : (s.recordRead r v).nalloc = s.nalloc := rfl
@[simp] theorem State.recordRead_seq (r : Reg) (v : Word) : (s.recordRead r v).seq = s.seq := rfl
@[simp] theorem State.recordRead_queue (r : Reg) (v : Word) : (s.recordRead r v).queue = s.queue := rfl
@[simp] theorem State.recordRead_root (r : Reg) (v : Word) : (s.recordRead r v).root = s.root := rfl
@[simp] theorem State.recordRead_cur (r : Reg) (v : Word) : (s.recordRead r v).cur = s.cur := rfl
@[simp] theorem State.recordRead_outcnt (r : Reg) (v : Word) : (s.recordRead r v).outcnt = s.outcnt := rfl
@[simp] theorem State.recordRead_seen (r : Reg) (v : Word) : (s.recordRead r v).seen = s.seen := rfl
@[simp] theorem State.recordRead_pend (r : Reg) (v : Word) : (s.recordRead r v).pend = s.pend := rfl
@[simp] theorem State.recordRead_lcmd (r : Reg) (v : Word) : (s.recordRead r v).lcmd = s.lcmd := rfl
@[simp] theorem State.recordRead_la0 (r : Reg) (v : Word) : (s.recordRead r v).la0 = s.la0 := rfl
@[simp] theorem State.recordRead_la1 (r : Reg) (v : Word) : (s.recordRead r v).la1 = s.la1 := rfl
@[simp] theorem State.recordRead_la2 (r : Reg) (v : Word) : (s.recordRead r v).la2 = s.la2 := rfl
@[simp] theorem State.recordRead_prog (r : Reg) (v : Word) : (s.recordRead r v).prog = s.prog := rfl
@[simp] theorem State.recordRead_turns (r : Reg) (v : Word) : (s.recordRead r v).turns = s.turns := rfl
@[simp] theorem State.recordRead_reads (r : Reg) (v : Word) : (s.recordRead r v).reads = { reg := r, value := v } :: s.reads := rfl
@[simp] theorem State.recordRead_draws (r : Reg) (v : Word) : (s.recordRead r v).draws = s.draws := rfl

/-! ### Derived bits -/

@[simp] theorem State.complete_tree : s.complete.tree = s.tree := rfl
@[simp] theorem State.raiseErr_tree (e : ErrCode) : (s.raiseErr e).tree = s.tree := rfl
@[simp] theorem State.setResults_tree (a b c : Word) : (s.setResults a b c).tree = s.tree := rfl

theorem State.tree_iff : s.tree = true ↔ s.phase = .built ∧ s.root ≠ s.params.null := by
  simp [State.tree]

end Sys2Proof.Machine
end

