-- ==== Sys2Proof/Laws/Bus.lean ====
section
/-! SUPPORT. The host agent: which register an access reaches, what a read changes, and whose turn it is. -/

namespace Sys2Proof.Machine

@[simp] theorem regAt_offset (r : Reg) : regAt r.offset = some r := by cases r <;> rfl

theorem Reg.offset_lt (r : Reg) : r.offset < 64 := by cases r <;> decide

/-- A 32-bit access at a register's offset reaches it (R72). -/
@[simp] theorem busTarget_offset (r : Reg) : busTarget .bits32 (.offset r.offset) = .ok r := by
  simp [busTarget, BusAddr.windowOffset, r.offset_lt]

/-- A read changes nothing but the count of draws (R77). -/
theorem State.busRead_frame (s : State) (r : Reg) : ∃ d, (s.busRead r).2 = { s with draws := d } := by
  unfold State.busRead
  split
  · cases r <;> first | exact ⟨s.draws, rfl⟩ | exact ⟨s.draws + 1, rfl⟩
  · exact ⟨s.draws, rfl⟩

/-- The BUSY bit of any read of STATUS is PEND (R58, R80). -/
theorem State.busRead_status_busy (s : State) : ((s.busRead .status).1).getLsbD 0 = s.pend := by
  unfold State.busRead
  split
  · next h => simp [State.busyRead, busyStatus, h]
  · next h => simp only [State.regValue, State.statusWord, BitVec.getLsbD_append]; simp

/-- The agent that moves next is the listed one, else the engine while a command is pending, else the host. -/
theorem nextTurn_cons {s : State} {t : Turn} {ts : List Turn} (h : s.turns = t :: ts) :
    nextTurn s = (t, { s with turns := ts }) := by
  simp [nextTurn, h]

theorem nextTurn_nil {s : State} (h : s.turns = []) : nextTurn s = (if s.pend then .engine else .host, s) := by
  simp [nextTurn, h]

end Sys2Proof.Machine
end

