-- ==== Sys2Proof/Laws/Decode.lean ====
section
/-! SUPPORT. The fields of a command word as arithmetic on its number, and what an illegal word decodes to. -/

namespace Sys2Proof

/-- OP is the top four bits (R96). -/
theorem opField_toNat (v : Word) : (opField v).toNat = v.toNat / 2 ^ 28 := by
  have := v.isLt
  simp only [opField, BitVec.extractLsb'_toNat, Nat.shiftRight_eq_div_pow]
  omega

/-- RSV is bits 27:1 (R96). -/
theorem rsvField_eq_zero (v : Word) : rsvField v = 0 ↔ v.toNat % 2 ^ 28 / 2 = 0 := by
  have := v.isLt
  rw [← BitVec.toNat_inj]
  simp [rsvField, BitVec.extractLsb'_toNat]
  omega

/-- B is bit 0 (R96). -/
theorem bField_eq_true (v : Word) : bField v = true ↔ v.toNat % 2 = 1 := by
  simp [bField, BitVec.getLsbD, Nat.testBit]

/-- The three ways a word is illegal (R97): its opcode, its reserved bits, its bit 0. -/
theorem decodeWord_eq_none_of_illegal {v : Word}
    (h : 0xA ≤ (opField v).toNat ∨ rsvField v ≠ 0 ∨ (opField v ≠ 0x9 ∧ bField v = true)) : decodeWord v = none := by
  unfold decodeWord decode
  split_ifs with h1 h2 h3
  · rfl
  · rfl
  · rfl
  · exact absurd h (by tauto)

/-- Lane `i` of a word built from four bytes is the `i`-th byte (R74). -/
theorem byteLane_wordOfLanes (b0 b1 b2 b3 : Byte) :
    byteLane (wordOfLanes b0 b1 b2 b3) 0 = b0 ∧ byteLane (wordOfLanes b0 b1 b2 b3) 1 = b1 ∧
    byteLane (wordOfLanes b0 b1 b2 b3) 2 = b2 ∧ byteLane (wordOfLanes b0 b1 b2 b3) 3 = b3 := by
  refine ⟨?_, ?_, ?_, ?_⟩ <;>
    · ext i hi
      simp only [byteLane, wordOfLanes, BitVec.getElem_extractLsb', BitVec.getLsbD_append]
      interval_cases i <;> simp

end Sys2Proof
end

