-- ==== Sys2Proof/Laws/Memory.lean ====
section
/-! SUPPORT. The node store: a read after a write, and the canonical form that a write keeps. -/

namespace Sys2Proof.Machine

theorem Memory.wf_cons {h : Nat} {n : Node} {rest : Memory} :
    Memory.wf ((h, n) :: rest) = true ↔
      n ≠ Node.unwritten ∧ (∀ c ∈ rest, h < c.1) ∧ Memory.wf rest = true := by
  simp [Memory.wf, and_assoc]

/-- A handle below every listed one reads as unwritten. -/
theorem Memory.read_of_below {m : Memory} {h : Nat} (hb : ∀ c ∈ m, h < c.1) : m.read h = Node.unwritten := by
  induction m with
  | nil => rfl
  | cons c rest ih =>
    obtain ⟨a, x⟩ := c
    have ha : h < a := hb (a, x) (by simp)
    simp only [Memory.read, if_neg (Nat.ne_of_gt ha)]
    exact ih fun c hc => hb c (by simp [hc])

/-- What a write changes: the record at its handle, and no other. -/
theorem Memory.read_write {m : Memory} (hm : m.wf = true) (h : Nat) (n : Node) (k : Nat) :
    (m.write h n).read k = if k = h then n else m.read k := by
  induction m with
  | nil =>
    by_cases hn : n = Node.unwritten
    · simp [Memory.write, Memory.read, hn]
    · simp [Memory.write, Memory.read, hn, eq_comm]
  | cons c rest ih =>
    obtain ⟨a, x⟩ := c
    obtain ⟨hx, hlt, hrest⟩ := Memory.wf_cons.mp hm
    have below : ∀ j, j ≤ a → Memory.read rest j = Node.unwritten := fun j hj =>
      Memory.read_of_below fun c hc => lt_of_le_of_lt hj (hlt c hc)
    unfold Memory.write
    by_cases h1 : h < a
    · rw [if_pos h1]
      by_cases hn : n = Node.unwritten <;> by_cases hk : k = h
      · subst hk; simp [hn, Memory.read, Nat.ne_of_gt h1, below k (Nat.le_of_lt h1)]
      · simp [hn, hk]
      · simp [hn, hk, Memory.read]
      · simp [hn, hk, Memory.read, Ne.symm hk]
    · rw [if_neg h1]
      by_cases h2 : a = h
      · subst h2
        by_cases hn : n = Node.unwritten <;> by_cases hk : k = a
        · subst hk; simp [hn, below k le_rfl]
        · simp [hn, hk, Memory.read, Ne.symm hk]
        · simp [hn, hk, Memory.read]
        · simp [hn, hk, Memory.read, Ne.symm hk]
      · rw [if_neg h2]
        by_cases hk : a = k
        · subst hk; simp [Memory.read, h2]
        · simp only [Memory.read, if_neg hk]
          exact ih hrest

/-- Every handle a write lists is its own or one listed before. -/
theorem Memory.mem_write {m : Memory} {h : Nat} {n : Node} {c : Nat × Node} (hc : c ∈ m.write h n) :
    c = (h, n) ∨ c ∈ m := by
  induction m with
  | nil =>
    unfold Memory.write at hc
    split_ifs at hc <;> simp_all
  | cons d rest ih =>
    obtain ⟨a, x⟩ := d
    unfold Memory.write at hc
    split_ifs at hc
    · exact .inr hc
    · rcases List.mem_cons.mp hc with h1 | h1
      · exact .inl h1
      · exact .inr h1
    · exact .inr (List.mem_cons_of_mem _ hc)
    · rcases List.mem_cons.mp hc with h1 | h1
      · exact .inl h1
      · exact .inr (List.mem_cons_of_mem _ h1)
    · rcases List.mem_cons.mp hc with h1 | h1
      · exact .inr (by simp [h1])
      · rcases ih h1 with h2 | h2
        · exact .inl h2
        · exact .inr (List.mem_cons_of_mem _ h2)

/-- A write keeps the canonical form. -/
theorem Memory.wf_write {m : Memory} (hm : m.wf = true) (h : Nat) (n : Node) : (m.write h n).wf = true := by
  induction m with
  | nil =>
    unfold Memory.write
    split_ifs with hn
    · rfl
    · simp [Memory.wf, hn]
  | cons c rest ih =>
    obtain ⟨a, x⟩ := c
    obtain ⟨hx, hlt, hrest⟩ := Memory.wf_cons.mp hm
    unfold Memory.write
    split_ifs with h1 h2 h2 h3
    · exact hm
    · refine Memory.wf_cons.mpr ⟨h2, ?_, hm⟩
      intro c hc
      rcases List.mem_cons.mp hc with hc | hc
      · simpa [hc] using h1
      · exact lt_trans h1 (hlt c hc)
    · exact hrest
    · subst h2
      exact Memory.wf_cons.mpr ⟨h3, hlt, hrest⟩
    · refine Memory.wf_cons.mpr ⟨hx, ?_, ih hrest⟩
      intro c hc
      rcases Memory.mem_write hc with hc | hc
      · rw [hc]; exact lt_of_le_of_ne (Nat.le_of_not_lt h1) h2
      · exact hlt c hc

theorem Memory.wf_reset : State.reset.store.wf = true := rfl

end Sys2Proof.Machine
end

