-- ==== Sys2Proof/Laws/Queue.lean ====
section
/-! SUPPORT. The priority queue: its order, its least entry, insertion and extraction; and the set SEEN. -/

namespace Sys2Proof.Machine

/-! ### The order (R110) -/

theorem Entry.not_before_self (a : Entry) : ¬ a.Before a := by
  simp [Entry.Before]

theorem Entry.Before.trans {a b c : Entry} (h1 : a.Before b) (h2 : b.Before c) : a.Before c := by
  unfold Entry.Before at *; omega

theorem Entry.Before.asymm {a b : Entry} (h : a.Before b) : ¬ b.Before a := by
  unfold Entry.Before at *; omega

theorem Entry.not_before_trans {a b c : Entry} (h1 : ¬ b.Before a) (h2 : ¬ c.Before b) : ¬ c.Before a := by
  unfold Entry.Before at *; omega

theorem Entry.eq_of_not_before {a b : Entry} (h1 : ¬ a.Before b) (h2 : ¬ b.Before a) : a = b := by
  obtain ⟨aw, ak, an⟩ := a
  obtain ⟨bw, bk, bn⟩ := b
  unfold Entry.Before at *
  simp only at h1 h2
  have hw : aw.toNat = bw.toNat := by omega
  have hk : ak = bk := by omega
  have hn : an = bn := by omega
  rw [Entry.mk.injEq]
  exact ⟨BitVec.eq_of_toNat_eq hw, hk, hn⟩

/-! ### The least entry (R111) -/

@[simp] theorem minEntry_eq_none {q : List Entry} : minEntry q = none ↔ q = [] := by
  cases q with
  | nil => simp [minEntry]
  | cons e es => simp only [minEntry]; split <;> [skip; split] <;> simp

/-- `minEntry` answers an entry of the queue that no other comes before. -/
theorem minEntry_spec {q : List Entry} {e : Entry} (h : minEntry q = some e) :
    e ∈ q ∧ ∀ x ∈ q, ¬ x.Before e := by
  induction q generalizing e with
  | nil => simp [minEntry] at h
  | cons y ys ih =>
    simp only [minEntry] at h
    split at h
    · next hn =>
      obtain rfl := minEntry_eq_none.mp hn
      obtain rfl := Option.some.inj h
      simp
    · next m hm =>
      obtain ⟨hmem, hmin⟩ := ih hm
      split at h
      · next hb =>
        obtain rfl := Option.some.inj h
        refine ⟨List.mem_cons_of_mem _ hmem, ?_⟩
        intro x hx
        rcases List.mem_cons.mp hx with rfl | hx
        · exact hb.asymm
        · exact hmin x hx
      · next hb =>
        obtain rfl := Option.some.inj h
        refine ⟨List.mem_cons_self, ?_⟩
        intro x hx
        rcases List.mem_cons.mp hx with rfl | hx
        · exact Entry.not_before_self _
        · exact Entry.not_before_trans hb (hmin x hx)

/-- An entry of the queue that no other comes before is the one `minEntry` answers. -/
theorem minEntry_of_least {q : List Entry} {e : Entry} (hmem : e ∈ q) (hmin : ∀ x ∈ q, ¬ x.Before e) :
    minEntry q = some e := by
  cases h : minEntry q with
  | none => simp [minEntry_eq_none.mp h] at hmem
  | some m =>
    obtain ⟨h1, h2⟩ := minEntry_spec h
    rw [Entry.eq_of_not_before (hmin m h1) (h2 e hmem)]

theorem minEntry_singleton (e : Entry) : minEntry [e] = some e := rfl

/-! ### Extraction -/

@[simp] theorem extractMin_eq_none {q : List Entry} : extractMin q = none ↔ q = [] := by
  unfold extractMin
  cases h : minEntry q with
  | none => simpa using minEntry_eq_none.mp h
  | some e => simpa using List.ne_nil_of_mem (minEntry_spec h).1

/-- Extraction takes the least entry and leaves one copy fewer. -/
theorem extractMin_spec {q q' : List Entry} {e : Entry} (h : extractMin q = some (e, q')) :
    e ∈ q ∧ (∀ x ∈ q, ¬ x.Before e) ∧ q' = q.erase e := by
  unfold extractMin at h
  split at h
  · cases h
  · next m hm =>
    obtain ⟨rfl, rfl⟩ : m = e ∧ q.erase m = q' := by simpa using h
    exact ⟨(minEntry_spec hm).1, (minEntry_spec hm).2, rfl⟩

theorem extractMin_of_least {q : List Entry} {e : Entry} (hmem : e ∈ q) (hmin : ∀ x ∈ q, ¬ x.Before e) :
    extractMin q = some (e, q.erase e) := by
  simp [extractMin, minEntry_of_least hmem hmin]

theorem extractMin_perm {q q' : List Entry} {e : Entry} (h : extractMin q = some (e, q')) : q.Perm (e :: q') := by
  obtain ⟨hm, -, rfl⟩ := extractMin_spec h
  exact List.perm_cons_erase hm

theorem extractMin_length {q q' : List Entry} {e : Entry} (h : extractMin q = some (e, q')) :
    q.length = q'.length + 1 := by
  simpa using (extractMin_perm h).length_eq

theorem extractMin_sorted {q q' : List Entry} {e : Entry} (h : extractMin q = some (e, q')) (hq : queueSorted q) :
    queueSorted q' := by
  obtain ⟨-, -, rfl⟩ := extractMin_spec h
  exact hq.sublist List.erase_sublist

/-! ### Insertion -/

theorem insertEntry_perm (e : Entry) (q : List Entry) : (insertEntry e q).Perm (e :: q) := by
  induction q with
  | nil => exact .refl _
  | cons x xs ih =>
    unfold insertEntry
    split
    · exact (ih.cons x).trans (.swap e x xs)
    · exact .refl _

@[simp] theorem insertEntry_length (e : Entry) (q : List Entry) : (insertEntry e q).length = q.length + 1 :=
  (insertEntry_perm e q).length_eq

@[simp] theorem mem_insertEntry {e x : Entry} {q : List Entry} : x ∈ insertEntry e q ↔ x = e ∨ x ∈ q := by
  rw [(insertEntry_perm e q).mem_iff, List.mem_cons]

theorem insertEntry_sorted (e : Entry) {q : List Entry} (hq : queueSorted q) : queueSorted (insertEntry e q) := by
  induction q with
  | nil => exact List.pairwise_singleton _ _
  | cons x xs ih =>
    obtain ⟨h1, h2⟩ := List.pairwise_cons.mp hq
    unfold insertEntry
    split
    · next hb =>
      refine List.pairwise_cons.mpr ⟨?_, ih h2⟩
      intro y hy
      rcases mem_insertEntry.mp hy with rfl | hy
      · exact hb.asymm
      · exact h1 y hy
    · next hb =>
      refine List.pairwise_cons.mpr ⟨?_, hq⟩
      intro y hy
      rcases List.mem_cons.mp hy with rfl | hy
      · exact hb
      · exact Entry.not_before_trans hb (h1 y hy)

/-! ### SEEN (R55) -/

@[simp] theorem mem_insertSymbol {x y : Nat} {l : List Nat} : y ∈ insertSymbol x l ↔ y = x ∨ y ∈ l := by
  induction l with
  | nil => simp [insertSymbol]
  | cons z zs ih =>
    unfold insertSymbol
    split_ifs with h1 h2
    · simp
    · subst h2; simp
    · simp only [List.mem_cons, ih]; tauto

theorem insertSymbol_rising (x : Nat) {l : List Nat} (hl : l.Pairwise (· < ·)) :
    (insertSymbol x l).Pairwise (· < ·) := by
  induction l with
  | nil => exact List.pairwise_singleton _ _
  | cons z zs ih =>
    obtain ⟨h1, h2⟩ := List.pairwise_cons.mp hl
    unfold insertSymbol
    split_ifs with h3 h4
    · refine List.pairwise_cons.mpr ⟨?_, hl⟩
      intro y hy
      rcases List.mem_cons.mp hy with rfl | hy
      · exact h3
      · exact lt_trans h3 (h1 y hy)
    · exact hl
    · refine List.pairwise_cons.mpr ⟨?_, ih h2⟩
      intro y hy
      rcases mem_insertSymbol.mp hy with rfl | hy
      · omega
      · exact h1 y hy

theorem insertSymbol_length {x : Nat} {l : List Nat} (h : x ∉ l) : (insertSymbol x l).length = l.length + 1 := by
  induction l with
  | nil => rfl
  | cons z zs ih =>
    simp only [List.mem_cons, not_or] at h
    unfold insertSymbol
    split_ifs with h1 h2
    · rfl
    · exact absurd h2 h.1
    · simp [ih h.2]

end Sys2Proof.Machine
end

