-- ==== Sys2Proof/Laws/Tree.lean ====
section
/-! SUPPORT. The merge step and the build loop: everything each can do. -/

namespace Sys2Proof.Machine

/-- The sum that fits is the exact sum (R127). -/
theorem addWeights_eq_some {a b w : Word} (h : addWeights a b = some w) :
    w.toNat = a.toNat + b.toNat ∧ a.toNat + b.toNat < 2 ^ 32 := by
  unfold addWeights Config.weightWidth at h
  split at h
  · cases h
  · next hlt =>
    obtain rfl := Option.some.inj h
    have : a.toNat + b.toNat < 2 ^ 32 := by omega
    exact ⟨by simpa using Nat.mod_eq_of_lt this, this⟩

theorem addWeights_of_fits {a b : Word} (h : a.toNat + b.toNat < 2 ^ 32) :
    addWeights a b = some (BitVec.ofNat 32 (a.toNat + b.toNat)) := by
  unfold addWeights Config.weightWidth
  rw [if_neg (by omega)]

/-- Everything a merge step that answers can do (R127): the two least entries leave, their nodes become the children of the
record at NALLOC, and its entry goes in. -/
theorem mergeStep_ok {s u : State} {e : Entry} (h : mergeStep s = .ok (e, u)) :
    ∃ a b q1 q2,
      extractMin s.queue = some (a, q1) ∧ extractMin q1 = some (b, q2) ∧
      a.n < s.nalloc ∧ b.n < s.nalloc ∧ s.nalloc ≠ s.params.ncap ∧
      e.w.toNat = a.w.toNat + b.w.toNat ∧ e.k = s.params.nsym + s.seq ∧ e.n = s.nalloc ∧
      u = { s with
        store := s.store.write s.nalloc (Node.internal e.w a.n b.n), nalloc := s.nalloc + 1, seq := s.seq + 1,
        queue := insertEntry e q2 } := by
  unfold mergeStep at h
  split at h
  · cases h
  · next a q1 ha =>
    split at h
    · cases h
    · next b q2 hb =>
      split_ifs at h with h1 h2
      split at h
      · cases h
      · next w hw =>
        obtain ⟨rfl, rfl⟩ : _ = e ∧ _ = u := by simpa using h
        refine ⟨a, b, q1, q2, ha, hb, ?_, ?_, h2, (addWeights_eq_some hw).1, rfl, rfl, rfl⟩ <;>
          · simp only [not_or, not_not] at h1
            first | exact h1.1 | exact h1.2

/-- When a merge step stops (R127, R182): EMPTYQ with fewer than two entries, else one of the three later checks. -/
theorem mergeStep_error {s : State} {e : ErrCode} (h : mergeStep s = .error e) :
    (e = .emptyQ ∧ s.queue.length < 2) ∨ ((e = .badNode ∨ e = .aFull ∨ e = .wOvf) ∧ 2 ≤ s.queue.length) := by
  unfold mergeStep at h
  split at h
  · next h1 =>
    obtain rfl := Except.error.inj h
    exact .inl ⟨rfl, by simp [extractMin_eq_none.mp h1]⟩
  · next a q1 h1 =>
    have l1 := extractMin_length h1
    split at h
    · next h2 =>
      obtain rfl := Except.error.inj h
      exact .inl ⟨rfl, by simp [l1, extractMin_eq_none.mp h2]⟩
    · next b q2 h2 =>
      have l2 := extractMin_length h2
      refine .inr ⟨?_, by omega⟩
      split_ifs at h
      · exact .inl (Except.error.inj h).symm
      · exact .inr (.inl (Except.error.inj h).symm)
      · split at h
        · exact .inr (.inr (Except.error.inj h).symm)
        · cases h

/-- Everything MERGE can do (R128). -/
theorem execMerge_cases {s t : State} (h : execMerge s = .next t) :
    (s.phase = .built ∧ t = s.raiseErr .locked) ∨
    (s.phase = .load ∧
      ((∃ e, mergeStep s = .error e ∧ t = s.raiseErr e) ∨
       ∃ e u, mergeStep s = .ok (e, u) ∧ t = (u.setResults e.w (zext32 e.k) (zext32 e.n)).complete)) := by
  unfold execMerge at h
  split at h
  · next hp => exact .inl ⟨hp, by simpa [raise] using h.symm⟩
  · next hp =>
    refine .inr ⟨by cases hs : s.phase <;> simp_all, ?_⟩
    split at h
    · next e he => exact .inl ⟨e, he, by simpa [raise] using h.symm⟩
    · next e u he => exact .inr ⟨e, u, he, by simpa [finish] using h.symm⟩

/-- A merge step leaves everything but the store, NALLOC, SEQ and the queue as it was. -/
theorem mergeStep_frame {s u : State} {e : Entry} (h : mergeStep s = .ok (e, u)) :
    u = { s with store := u.store, nalloc := s.nalloc + 1, seq := s.seq + 1, queue := u.queue } := by
  obtain ⟨a, b, q1, q2, -, -, -, -, -, -, -, -, rfl⟩ := mergeStep_ok h
  rfl

/-- Each merge step shrinks the queue by one (R134). -/
theorem mergeStep_length {s u : State} {e : Entry} (h : mergeStep s = .ok (e, u)) :
    s.queue.length = u.queue.length + 1 := by
  obtain ⟨a, b, q1, q2, ha, hb, -, -, -, -, -, -, rfl⟩ := mergeStep_ok h
  simp [extractMin_length ha, extractMin_length hb]

/-- A chain of merge steps, with its counts (R129, R134) and its frame. -/
theorem MergeChain.counts {n : Nat} {s t : State} (h : MergeChain n s t) :
    s.queue.length = t.queue.length + n ∧
      t = { s with store := t.store, nalloc := s.nalloc + n, seq := s.seq + n, queue := t.queue } := by
  induction h with
  | refl s => exact ⟨rfl, rfl⟩
  | cons hm _ ih =>
    obtain ⟨h1, h2⟩ := ih
    have hl := mergeStep_length hm
    have hf := mergeStep_frame hm
    refine ⟨by omega, ?_⟩
    rw [h2, hf]
    simp only [State.mk.injEq, true_and, and_true]
    omega

/-- What every merge step keeps, a chain of them keeps. -/
theorem MergeChain.keeps {P : State → Prop} (hP : ∀ s u e, mergeStep s = .ok (e, u) → P s → P u) {n : Nat} {s t : State}
    (h : MergeChain n s t) (hs : P s) : P t := by
  induction h with
  | refl => exact hs
  | cons hm _ ih => exact ih (hP _ _ _ hm hs)

/-- Everything the build loop can do (R129): some merge steps, and then at most one entry left, or an error of the next
step. -/
theorem buildLoop_spec {fuel : Nat} {s t : State} {o : Option ErrCode} (hf : s.queue.length ≤ fuel)
    (h : buildLoop fuel s = (o, t)) :
    ∃ n, MergeChain n s t ∧
      ((o = none ∧ t.queue.length ≤ 1) ∨ ∃ e, o = some e ∧ 1 < t.queue.length ∧ mergeStep t = .error e) := by
  induction fuel generalizing s with
  | zero =>
    obtain ⟨rfl, rfl⟩ : none = o ∧ s = t := by simpa [buildLoop] using h
    exact ⟨0, .refl _, .inl ⟨rfl, by omega⟩⟩
  | succ fuel ih =>
    unfold buildLoop at h
    split at h
    · next hq =>
      obtain ⟨rfl, rfl⟩ : none = o ∧ s = t := by simpa using h
      exact ⟨0, .refl _, .inl ⟨rfl, hq⟩⟩
    · next hq =>
      split at h
      · next e he =>
        obtain ⟨rfl, rfl⟩ : some e = o ∧ s = t := by simpa using h
        exact ⟨0, .refl _, .inr ⟨e, rfl, by omega, he⟩⟩
      · next e u hu =>
        obtain ⟨n, hc, hend⟩ := ih (by have := mergeStep_length hu; omega) h
        exact ⟨n + 1, .cons hu hc, hend⟩

/-- Everything BUILD can do (R129). -/
theorem execBuild_cases {s t : State} (h : execBuild s = .next t) :
    (s.phase = .built ∧ t = s.raiseErr .locked) ∨
    (s.phase = .load ∧ ∃ n u, MergeChain n s u ∧
      ((1 < u.queue.length ∧ ∃ e, mergeStep u = .error e ∧ t = u.raiseErr e) ∨
       (∃ e, u.queue = [e] ∧ u.nalloc ≤ e.n ∧ t = u.raiseErr .badNode) ∨
       (∃ e, u.queue = [e] ∧ e.n < u.nalloc ∧ t = (u.fixRoot e.n e.w (zext32 e.k) (zext32 e.n)).complete) ∨
       (u.queue = [] ∧ t = (u.fixRoot u.params.null 0 0 (zext32 u.params.null)).complete))) := by
  unfold execBuild at h
  split at h
  · next hp => exact .inl ⟨hp, by simpa [raise] using h.symm⟩
  · next hp =>
    refine .inr ⟨by cases hs : s.phase <;> simp_all, ?_⟩
    split at h
    · next e u hl =>
      obtain ⟨n, hc, hend⟩ := buildLoop_spec le_rfl hl
      obtain ⟨hno, -⟩ | ⟨e', he', hq, herr⟩ := hend
      · cases hno
      · obtain rfl := Option.some.inj he'
        exact ⟨n, u, hc, .inl ⟨hq, e, herr, by simpa [raise] using h.symm⟩⟩
    · next u hl =>
      obtain ⟨n, hc, hend⟩ := buildLoop_spec le_rfl hl
      obtain ⟨-, hq⟩ | ⟨e', he', -⟩ := hend
      · refine ⟨n, u, hc, .inr ?_⟩
        split at h
        · next hm => exact .inr (.inr ⟨minEntry_eq_none.mp hm, by simpa [finish] using h.symm⟩)
        · next e hm =>
          have hone : u.queue = [e] := by
            have hmem := (minEntry_spec hm).1
            obtain ⟨x, hx⟩ : ∃ x, u.queue = [x] := List.length_eq_one_iff.mp
              (le_antisymm hq (List.length_pos_of_mem hmem))
            rw [hx] at hmem
            rw [hx, List.mem_singleton.mp hmem]
          split_ifs at h with hv
          · exact .inr (.inl ⟨e, hone, hv, by simpa [finish] using h.symm⟩)
          · exact .inl ⟨e, hone, Nat.le_of_not_lt hv, by simpa [raise] using h.symm⟩
      · cases he'

/-- BUILD in a state whose loop ends is what its end says. -/
theorem execBuild_next (s : State) : ∃ t, execBuild s = .next t := by
  unfold execBuild
  split
  · exact ⟨_, rfl⟩
  · split
    · exact ⟨_, rfl⟩
    · split
      · exact ⟨_, rfl⟩
      · split_ifs <;> exact ⟨_, rfl⟩

end Sys2Proof.Machine
end

