-- ==== Sys2Proof/Laws/Invariant.lean ====
section
/-! SUPPORT. Small lemmas about the invariant: what it depends on, and the children of an allocated record. -/

namespace Sys2Proof.Machine

/-- The constraints of R7 on the parameters, one by one. -/
theorem wellFormed_bounds {p : Params} (h : p.wellFormed = true) :
    1 ≤ p.symw ∧ p.symw ≤ 16 ∧ p.ncap ≤ p.null ∧ p.nsym + p.ncap ≤ 2 ^ p.kw ∧ 1 ≤ p.qcap ∧ p.qcap ≤ 65535 ∧
      p.hw ≤ 16 ∧ p.kw ≤ 32 := by
  simpa [Params.wellFormed, and_assoc, Params.null] using h

theorem Node.isLeaf_iff {p : Params} {n : Node} : n.isLeaf p = true ↔ n.left = p.null ∧ n.right = p.null := by
  simp [Node.isLeaf]

/-- NULL is no valid handle (R7, R47). -/
theorem State.Inv.nalloc_le_null {s : State} (h : s.Inv) : s.nalloc ≤ s.params.null :=
  le_trans h.nalloc (wellFormed_bounds h.params).2.2.1

/-- The invariant depends on the parameters, the node store, the queue, the pointers, the phase and ERR alone. -/
theorem State.Inv.congr {s t : State} (h : s.Inv) (h1 : t.params = s.params) (h2 : t.store = s.store)
    (h3 : t.nalloc = s.nalloc) (h4 : t.seen = s.seen) (h5 : t.seq = s.seq) (h6 : t.queue = s.queue)
    (h7 : t.phase = s.phase) (h8 : t.root = s.root) (h9 : t.cur = s.cur) (h10 : t.err ≠ .decErr) : t.Inv := by
  have ht : t.tree = s.tree := by simp [State.tree, h1, h7, h8]
  have hr : ∀ x, t.RecordShape x ↔ s.RecordShape x := by intro x; simp [State.RecordShape, h1, h2]
  refine ⟨?_, ?_, ?_, ?_, ?_, ?_, ?_, ?_, ?_, ?_, ?_, ?_, ?_, ?_, ?_, h10⟩
  · rw [h1]; exact h.params
  · rw [h2]; exact h.store
  · rw [h3, h1]; exact h.nalloc
  · rw [h3, h4, h5]; exact h.count
  · intro x hx; rw [hr]; exact h.records x (h3 ▸ hx)
  · rw [h6]; exact h.queue
  · rw [h6, h1]; exact h.size
  · rw [h6, h1]; exact h.entries
  · rw [h7, h8, h1]; exact h.load
  · rw [h8, h9, h1]; exact h.noRoot
  · rw [ht, h8, h9, h3]; exact h.valid
  · rw [ht, h8, h9, h1, h2]; exact h.reached
  · rw [ht, h8, h9, h1, h2]; exact h.resting
  · rw [h4]; exact h.seenRising
  · rw [h1, h2, h3, h4]; exact h.seenLeaves

/-- An allocated record is a leaf without children, or both its children are smaller handles (R48). -/
theorem State.Inv.child_cases {s : State} (h : s.Inv) {x : Nat} (hx : x < s.nalloc) (b : Bool) :
    ((s.store.read x).isLeaf s.params = true ∧ (s.store.read x).child b = s.params.null) ∨
      ((s.store.read x).isLeaf s.params = false ∧ (s.store.read x).child b < x) := by
  have := h.nalloc_le_null
  rcases h.records x hx with ⟨h1, h2, -⟩ | ⟨h1, h2, -⟩
  · exact .inl ⟨Node.isLeaf_iff.mpr ⟨h1, h2⟩, by cases b <;> simp [Node.child, h1, h2]⟩
  · refine .inr ⟨?_, by cases b <;> simp [Node.child, h1, h2]⟩
    rw [← Bool.not_eq_true, Node.isLeaf_iff]
    omega

/-- A walk that ends at an internal node goes one edge further. -/
theorem walkFrom_append {p : Params} {m : Memory} {h : Nat} {bs : List Bool} {c : Nat}
    (hw : walkFrom p m h bs = some c) (b : Bool) (hl : (m.read c).isLeaf p = false) :
    walkFrom p m h (bs ++ [b]) = some ((m.read c).child b) := by
  induction bs generalizing h with
  | nil =>
    obtain rfl := Option.some.inj hw
    simp [walkFrom, hl]
  | cons d ds ih =>
    simp only [walkFrom, List.cons_append] at hw ⊢
    split_ifs at hw with h1
    rw [if_neg h1]
    exact ih hw

end Sys2Proof.Machine
end

