-- ==== Sys2Proof/Laws/PerInstr.lean ====
section
/-! SUPPORT. Per-instruction statements about the command words: the fields of each encoded instruction (R96 to R99). -/

namespace Sys2Proof.Laws.WordFields

/-- The word of `i` has the opcode of `i`, below 0xA, no reserved bit, and bit 0 only as the operand of DEC_BIT. -/
def Statement (i : Instr) : Prop :=
  opField (encode i) = opcode i ∧ (opcode i).toNat < 0xA ∧ rsvField (encode i) = 0 ∧ bField (encode i) = operandBit i ∧
    (operandBit i = true → i = .decBit true)

theorem nop : Statement .nop := by unfold Statement; decide
theorem clear : Statement .clear := by unfold Statement; decide
theorem leaf : Statement .leaf := by unfold Statement; decide
theorem merge : Statement .merge := by unfold Statement; decide
theorem build : Statement .build := by unfold Statement; decide
theorem pqInsert : Statement .pqInsert := by unfold Statement; decide
theorem pqExtract : Statement .pqExtract := by unfold Statement; decide
theorem nodeRead : Statement .nodeRead := by unfold Statement; decide
theorem decReset : Statement .decReset := by unfold Statement; decide
theorem decBit (b : Bool) : Statement (.decBit b) := by unfold Statement; cases b <;> decide

end Sys2Proof.Laws.WordFields
end

