-- ==== Sys2Proof/Laws/Step.lean ====
section
/-! SUPPORT. One step, by the agent whose turn it is. -/

namespace Sys2Proof.Machine

theorem step_host {s : State} {ts : List Turn} (h : s.turns = .host :: ts) :
    step s = hostStep { s with turns := ts } := by
  rw [step, nextTurn_cons h, agentStep]

theorem step_engine {s : State} {ts : List Turn} (h : s.turns = .engine :: ts) :
    step s = engineStep { s with turns := ts } := by
  rw [step, nextTurn_cons h, agentStep]

theorem step_reset {s : State} {ts : List Turn} (h : s.turns = .reset :: ts) :
    step s = .next ({ s with turns := ts } : State).assertReset := by
  rw [step, nextTurn_cons h, agentStep]

/-- With no turn listed, the engine performs the pending command. -/
theorem step_engine_pending {s : State} (h : s.turns = []) (hp : s.pend = true) : step s = engineStep s := by
  rw [step, nextTurn_nil h, if_pos hp, agentStep]

/-- With no turn listed and nothing pending, the host makes its next access. -/
theorem step_host_idle {s : State} (h : s.turns = []) (hp : s.pend = false) : step s = hostStep s := by
  rw [step, nextTurn_nil h, if_neg (by simp [hp]), agentStep]

/-- The engine step with a command pending performs the latched word (R57). -/
theorem engineStep_pending {s : State} (h : s.pend = true) : engineStep s = performLatched s := if_pos h

end Sys2Proof.Machine
end

