-- ==== Sys2Proof/Tests/Slice0.lean ====
section
/-! SUPPORT. Tests with results from spec/95_test_vectors.md, and a witness for the hypotheses of each statement. -/

namespace Sys2Proof.Tests

open Sys2Proof Sys2Proof.Machine

/-! ### Small states -/

/-- The next state of a result. -/
def after : Result → Option State
  | .next t => some t
  | .fault _ => none
  | .refused _ => none

/-- `s` with a command pending whose latched arguments are given. -/
def latch (s : State) (w k n : Word) : State := { s with pend := true, la0 := w, la1 := k, la2 := n }

/-- `s` with the next turns and host operations given. -/
def plan (s : State) (ts : List Turn) (ops : List HostOp) : State := { s with turns := ts, prog := ops }

/-- The reset state with a command in flight. -/
def busy : State := { State.reset with pend := true }

/-- After LEAF 'a' (w 1) and LEAF 'b' (w 1): program P4 before its last `build`. -/
def seeded : State :=
  { State.reset with
    store := [(0, { weight := 1, symbol := 0x61, left := 511, right := 511 }),
      (1, { weight := 1, symbol := 0x62, left := 511, right := 511 })],
    nalloc := 2, seen := [0x61, 0x62], queue := [{ w := 1, k := 0x61, n := 0 }, { w := 1, k := 0x62, n := 1 }] }

/-- After the `build` that follows: node 2 is `Internal(2, 0, 1)` (program P4). -/
def treed : State :=
  { seeded with
    store := [(0, { weight := 1, symbol := 0x61, left := 511, right := 511 }),
      (1, { weight := 1, symbol := 0x62, left := 511, right := 511 }),
      (2, { weight := 2, symbol := 0, left := 0, right := 1 })],
    nalloc := 3, seq := 1, queue := [{ w := 2, k := 256, n := 2 }], root := 2, cur := 2, phase := .built,
    res0 := 2, res1 := 256, res2 := 2 }

/-- The end state of V-TB-4: one leaf 'a' (w 4), which is the root. -/
def single : State :=
  { State.reset with
    store := [(0, { weight := 4, symbol := 0x61, left := 511, right := 511 })], nalloc := 1, seen := [0x61],
    queue := [{ w := 4, k := 0x61, n := 0 }], root := 0, cur := 0, phase := .built }

/-- The tree of program P4 with one more leaf 'c' (w 2) and the root above both. -/
def deeper : State :=
  { treed with
    store := (treed.store.write 3 { weight := 2, symbol := 0x63, left := 511, right := 511 }).write 4
      { weight := 4, symbol := 0, left := 3, right := 2 },
    nalloc := 5, seq := 2, seen := [0x61, 0x62, 0x63], queue := [{ w := 4, k := 257, n := 4 }], root := 4, cur := 4 }

/-- Outside the invariant: the root is an internal node without a left child. -/
def crooked : State := { treed with store := treed.store.write 2 { weight := 2, symbol := 0, left := 511, right := 1 } }

/-- The leaves of `seeded` with weights in the queue whose sum is `2^32` (V-TB-11). -/
def heavy : State :=
  { seeded with queue := [{ w := 1, k := 0x62, n := 1 }, { w := 0xFFFFFFFF, k := 0x61, n := 0 }] }

/-- `seeded` with a full node store. -/
def storeFull : State := { seeded with params := { ncap := 2 } }

/-- `seeded` with a full queue. -/
def queueFull : State := { seeded with params := { qcap := 2 } }

/-- A queue of two entries whose node 0 is not allocated (V-TB-15, V-TB-16). -/
def unallocated : State :=
  { State.reset with queue := [{ w := 1, k := 0, n := 0 }, { w := 1, k := 1, n := 0 }] }

/-! ### Well-formedness: each check refuses an ill-formed term -/

theorem test_wf_default : Params.default.wellFormed = true := by decide
theorem test_wf_symw_low : ({ symw := 0 } : Params).wellFormed = false := by decide
theorem test_wf_symw_high : ({ symw := 17, kw := 32 } : Params).wellFormed = false := by decide
theorem test_wf_ncap : ({ ncap := 512 } : Params).wellFormed = false := by decide
theorem test_wf_kw : ({ kw := 9 } : Params).wellFormed = false := by decide
theorem test_wf_qcap_low : ({ qcap := 0 } : Params).wellFormed = false := by decide
theorem test_wf_qcap_high : ({ qcap := 65536 } : Params).wellFormed = false := by decide
theorem test_wf_hw : ({ hw := 17 } : Params).wellFormed = false := by decide
theorem test_wf_kw_high : ({ kw := 33 } : Params).wellFormed = false := by decide
theorem test_wf_every_instr : Instr.wellFormed (.decBit true) = true := by decide

/-! ### Decoding: words written out bit by bit from R96 and R102 (OP, 27 zeros, B) -/

theorem test_decode_nop : decodeWord 0b00000000000000000000000000000000#32 = some .nop := by decide
theorem test_decode_clear : decodeWord 0b00010000000000000000000000000000#32 = some .clear := by decide
theorem test_decode_leaf : decodeWord 0b00100000000000000000000000000000#32 = some .leaf := by decide
theorem test_decode_merge : decodeWord 0b00110000000000000000000000000000#32 = some .merge := by decide
theorem test_decode_build : decodeWord 0b01000000000000000000000000000000#32 = some .build := by decide
theorem test_decode_pqInsert : decodeWord 0b01010000000000000000000000000000#32 = some .pqInsert := by decide
theorem test_decode_pqExtract : decodeWord 0b01100000000000000000000000000000#32 = some .pqExtract := by decide
theorem test_decode_nodeRead : decodeWord 0b01110000000000000000000000000000#32 = some .nodeRead := by decide
theorem test_decode_decReset : decodeWord 0b10000000000000000000000000000000#32 = some .decReset := by decide
theorem test_decode_decBit0 : decodeWord 0b10010000000000000000000000000000#32 = some (.decBit false) := by decide
theorem test_decode_decBit1 : decodeWord 0b10010000000000000000000000000001#32 = some (.decBit true) := by decide
theorem test_decode_reserved_opcode : decode 0xA0000001#32 = .error .reservedOpcode := by rfl
theorem test_decode_reserved_bits : decode 0x90000002#32 = .error .reservedBits := by rfl
theorem test_decode_bit_operand : decode 0x20000001#32 = .error .bitOperand := by rfl
theorem test_table_word : decodeTableWord 32 0x90000001 = some (.decBit true) := by decide
theorem test_lanes : byteLane 0x20000001#32 0 = 0x01#8 ∧ byteLane 0x20000001#32 3 = 0x20#8 ∧
    wordOfLanes 0x01 0x00 0x00 0x20 = 0x20000001#32 := by decide

/-! ### Control: V-CTL-1, V-CTL-3, V-BUS-10 -/

theorem test_nop_keeps_errs :
    (after (execNop { State.reset with err := .emptyQ, errs := true })).map State.statusWord = some 0x00000020#32 := by
  decide

theorem test_clear_empties :
    (after (execClear { treed with arg0 := 7 })).map (fun t => (t.statusWord, t.nalloc, t.seq, t.root, t.res2, t.arg0)) =
      some (0, 0, 0, 511, 0, 7) := by
  decide

theorem test_clear_keeps_ovr :
    (after (execClear { State.reset with err := .emptyQ, errs := true, ovr := true })).map State.statusWord =
      some 0x00000040#32 := by
  decide

/-! ### Priority queue: V-PQ-7, V-PQ-5, V-PQ-3, V-PQ-4 -/

theorem test_insert_largest_key_and_null :
    (after (execPqInsert (latch State.reset 1 1023 0x1FF))).map (fun t => (t.err, t.queue)) =
      some (.ok, [{ w := 1, k := 1023, n := 511 }]) := by
  decide

theorem test_insert_key_too_large :
    (after (execPqInsert (latch State.reset 1 1024 0))).map State.statusWord = some 0x00000220#32 := by
  decide

theorem test_extract_breaks_ties_by_handle :
    (after (execPqExtract { State.reset with
      queue := [{ w := 3, k := 0, n := 0 }, { w := 1, k := 5, n := 1 }, { w := 1, k := 2, n := 2 }, { w := 1, k := 2, n := 0 }] })).map
        (fun t => (t.res0, t.res1, t.res2, t.queue.length)) = some (1, 2, 0, 3) := by
  decide

theorem test_extract_empty :
    (after (execPqExtract State.reset)).map State.statusWord = some 0x00000420#32 := by
  decide

/-! ### Tree builder: V-TB-1, V-TB-8, V-TB-12, V-TB-16, V-TB-2, V-TB-13, program P5, V-TB-21 -/

theorem test_leaf :
    (after (execLeaf (latch State.reset 5 0 0x61))).map (fun t => (t.store.read 0, t.queue, t.seen, t.res1, t.res2)) =
      some ({ weight := 5, symbol := 0x61, left := 511, right := 511 }, [{ w := 5, k := 0x61, n := 0 }], [0x61],
        0x61, 0) := by
  decide

theorem test_leaf_twice :
    (after (execLeaf (latch seeded 9 0 0x61))).map (fun t => (t.statusWord, t.nalloc)) = some (0x00000720, 2) := by
  decide

theorem test_merge_largest_sum :
    (after (execMerge { seeded with
      queue := [{ w := 1, k := 0x79, n := 1 }, { w := 0xFFFFFFFE, k := 0x78, n := 0 }] })).map
        (fun t => (t.store.read 2, t.res0, t.res1, t.res2)) =
      some ({ weight := 0xFFFFFFFF, symbol := 0, left := 1, right := 0 }, 0xFFFFFFFF, 256, 2) := by
  decide

theorem test_merge_bad_node :
    (after (execMerge unallocated)).map (fun t => (t.err, t.queue.length)) = some (.badNode, 2) := by
  decide

theorem test_build_leaf_before_internal :
    (after (execBuild { seeded with
      store := seeded.store.write 2 (Node.leaf seeded.params 2 0x63), nalloc := 3, seen := [0x61, 0x62, 0x63],
      queue := insertEntry { w := 2, k := 0x63, n := 2 } seeded.queue })).map
        (fun t => (t.store.read 3, t.store.read 4, t.root, t.res0, t.res1, t.res2)) =
      some ({ weight := 2, symbol := 0, left := 0, right := 1 }, { weight := 4, symbol := 0, left := 2, right := 3 },
        4, 4, 257, 4) := by
  decide

theorem test_build_keeps_merges_before_error :
    (after (execBuild { seeded with
      nalloc := 3,
      queue := [{ w := 1, k := 0x63, n := 2 }, { w := 0x10, k := 0x62, n := 1 }, { w := 0xFFFFFFF0, k := 0x61, n := 0 }] })).map
        (fun t => (t.err, t.queue, t.nalloc, t.seq, t.phase, t.root)) =
      some (.wOvf, [{ w := 0x11, k := 256, n := 3 }, { w := 0xFFFFFFF0, k := 0x61, n := 0 }], 4, 1, .load, 511) := by
  decide

theorem test_node_read :
    (after (execNodeRead (latch { treed with
      store := treed.store.write 4 { weight := 4, symbol := 0, left := 2, right := 3 }, nalloc := 5 } 0 0 4))).map
        (fun t => (t.res0, t.res1, t.res2)) = some (4, 0, 0x00030002) := by
  decide

theorem test_node_read_null :
    (after (execNodeRead (latch treed 0 0 0x1FF))).map State.statusWord = some 0x00000826#32 := by
  decide

/-! ### Decoder: V-DEC-5, V-DEC-10, V-DEC-8, V-DEC-11 -/

theorem test_dec_reset :
    (after (execDecReset { treed with symv := true, outcnt := 3 })).map (fun t => (t.cur, t.outcnt, t.statusWord)) =
      some (2, 0, 0x00000006) := by
  decide

theorem test_dec_reset_no_tree : (after (execDecReset State.reset)).map State.statusWord = some 0x00000A20#32 := by
  decide

theorem test_dec_bit_one_leaf :
    (after (execDecBit true single)).map (fun t => (t.res1, t.res2, t.cur, t.outcnt, t.statusWord)) =
      some (0x61, 0, 0, 1, 0x0000000E) := by
  decide

theorem test_dec_bit_count_wraps :
    (after (execDecBit true { treed with outcnt := 0xFFFFFFFF })).map (fun t => (t.res1, t.res2, t.cur, t.outcnt)) =
      some (0x62, 1, 2, 0) := by
  decide

/-! ### The bus and the step: V-BUS-1, V-BUS-4, V-BUS-8, V-BUS-9, V-CTL-6 -/

theorem test_read_params :
    (after (step (plan State.reset [] [rd .params0, rd .params1]))).map State.reads =
      some [{ reg := .params0, value := 0x0A090820 }] := by
  decide

theorem test_result_write_is_ignored :
    (after (step (plan State.reset [] [wr .res0 5]))).map State.res0 = some 0 := by
  decide

theorem test_busy_argument_write :
    (after (step (plan { busy with la0 := 4 } [.host] [wr .arg0 9]))).map (fun t => (t.arg0, t.la0, t.pend)) =
      some (9, 4, true) := by
  decide

theorem test_status_write :
    (after (step (plan { State.reset with err := .emptyQ, errs := true, ovr := true } [] [wr .status 0x20]))).map
      State.statusWord = some 0x00000440#32 := by
  decide

theorem test_busy_command_write :
    (after (step (plan { busy with lcmd := 0x10000000 } [.host] [cmd .build]))).map (fun t => (t.ovr, t.lcmd)) =
      some (true, 0x10000000) := by
  decide

theorem test_fetch_runs_the_word :
    (after (step (State.reset.withFetchWord 32 0x40000000))).map (fun t => (t.statusWord, t.res2)) =
      some (0x00000002, 0x1FF) := by
  decide

theorem test_illegal_word :
    (after (step (State.reset.withFetchWord 32 0x20000001))).map (fun t => (t.statusWord, t.nalloc)) =
      some (0x00000120, 0) := by
  decide

theorem test_reset_abandons_the_command :
    (after (step (plan { treed with pend := true, lcmd := 0x10000000 } [.reset] []))).map
      (fun t => (t.pend, t.statusWord, t.root)) = some (false, 0, 511) := by
  decide

/-- Program P1's first line: W 0x08 5; W 0x10 0x61; W 0x00 0x20000000; wait. -/
theorem test_asm_leaf :
    asmLeaf 5 0x61 = [.write .bits32 (.offset 0x08) 5, .write .bits32 (.offset 0x10) 0x61,
      .write .bits32 (.offset 0x00) 0x20000000, .wait] := by
  decide

/-- Program P3's `insert w, k, n`. -/
theorem test_asm_insert :
    asmInsert 3 4 5 = [.write .bits32 (.offset 0x08) 3, .write .bits32 (.offset 0x0C) 4,
      .write .bits32 (.offset 0x10) 5, .write .bits32 (.offset 0x00) 0x50000000, .wait] := by
  decide

/-- Program P4's `decbits 1 0`. -/
theorem test_asm_decbits :
    asmDecBits [true, false] = [.write .bits32 (.offset 0x00) 0x90000001, .wait,
      .write .bits32 (.offset 0x00) 0x90000000, .wait] := by
  decide

/-! ### The invariant in five states -/

theorem witness_reset_inv : State.reset.Inv := by
  refine ⟨by decide, by decide, by decide, by decide, ?_, by decide, by decide, by decide, fun _ => rfl, fun _ => rfl,
    fun h => absurd h (by decide), fun h => absurd h (by decide), fun h => absurd h (by decide), by decide, ?_, by decide⟩
  · intro h hh; exact absurd hh (Nat.not_lt_zero h)
  · intro x
    constructor
    · intro hx; cases hx
    · rintro ⟨h, hh, -⟩; exact absurd hh (Nat.not_lt_zero h)

theorem witness_seeded_inv : seeded.Inv := by
  refine ⟨by decide, by decide, by decide, by decide, by decide, by decide, by decide, by decide, fun _ => rfl,
    fun _ => rfl, fun h => absurd h (by decide), fun h => absurd h (by decide), fun h => absurd h (by decide), by decide,
    ?_, by decide⟩
  intro x
  constructor
  · intro hx
    rcases List.mem_cons.mp hx with rfl | hx
    · exact ⟨0, by decide⟩
    · rw [List.mem_singleton.mp hx]; exact ⟨1, by decide⟩
  · rintro ⟨h, hh, -, rfl⟩
    have hh : h < 2 := hh
    interval_cases h <;> decide

theorem witness_treed_inv : treed.Inv := by
  refine ⟨by decide, by decide, by decide, by decide, by decide, by decide, by decide, by decide,
    fun h => absurd h (by decide), fun h => absurd h (by decide), by decide, fun _ => ⟨[], rfl⟩, by decide, by decide,
    ?_, by decide⟩
  intro x
  constructor
  · intro hx
    rcases List.mem_cons.mp hx with rfl | hx
    · exact ⟨0, by decide⟩
    · rw [List.mem_singleton.mp hx]; exact ⟨1, by decide⟩
  · rintro ⟨h, hh, hl, rfl⟩
    have hh : h < 3 := hh
    interval_cases h
    · decide
    · decide
    · exact absurd hl (by decide)

theorem witness_single_inv : single.Inv := by
  refine ⟨by decide, by decide, by decide, by decide, by decide, by decide, by decide, by decide,
    fun h => absurd h (by decide), fun h => absurd h (by decide), by decide, fun _ => ⟨[], rfl⟩, by decide, by decide,
    ?_, by decide⟩
  intro x
  constructor
  · intro hx
    rw [List.mem_singleton.mp hx]; exact ⟨0, by decide⟩
  · rintro ⟨h, hh, -, rfl⟩
    have hh : h < 1 := hh
    interval_cases h
    decide

theorem witness_deeper_inv : deeper.Inv := by
  refine ⟨by decide, by decide, by decide, by decide, by decide, by decide, by decide, by decide,
    fun h => absurd h (by decide), fun h => absurd h (by decide), by decide, fun _ => ⟨[], rfl⟩, by decide, by decide,
    ?_, by decide⟩
  intro x
  constructor
  · intro hx
    rcases List.mem_cons.mp hx with rfl | hx
    · exact ⟨0, by decide⟩
    · rcases List.mem_cons.mp hx with rfl | hx
      · exact ⟨1, by decide⟩
      · rw [List.mem_singleton.mp hx]; exact ⟨3, by decide⟩
  · rintro ⟨h, hh, hl, rfl⟩
    have hh : h < 5 := hh
    interval_cases h
    · decide
    · decide
    · exact absurd hl (by decide)
    · decide
    · exact absurd hl (by decide)

/-! ### Witnesses: the hypotheses of each statement meet in a concrete state -/

theorem witness_DecodeAndEncodeAgree :
    Instr.wellFormed (.decBit false) = true ∧ decodeWord 0x90000001#32 = some (.decBit true) := by
  decide

/-- The first reserved opcode, a reserved bit, and bit 0 of a command other than DEC_BIT. -/
theorem witness_IllegalWordRaisesIllegal :
    0xA ≤ (0xA0000000#32).toNat / 2 ^ 28 ∧ (0x90000002#32).toNat % 2 ^ 28 / 2 ≠ 0 ∧
    ((0x80000001#32).toNat % 2 = 1 ∧ (0x80000001#32).toNat / 2 ^ 28 ≠ 9) ∧
    IllegalWord 0xA0000000#32 ∧ (plan State.reset [.host, .engine] [wr .cmd 0xA0000000]).pend = false ∧
    (plan State.reset [.host, .engine] [wr .cmd 0xA0000000]).turns = .host :: .engine :: [] ∧
    (plan State.reset [.host, .engine] [wr .cmd 0xA0000000]).prog = wr .cmd 0xA0000000 :: [] := by
  decide

/-- An illegal word that is already latched, in a state with a tree. -/
theorem witness_IllegalWordRaisesIllegal_latched :
    IllegalWord ({ plan treed [.engine] [] with pend := true, lcmd := 0x90000002 } : State).lcmd ∧
    ({ plan treed [.engine] [] with pend := true, lcmd := 0x90000002 } : State).pend = true ∧
    ({ plan treed [.engine] [] with pend := true, lcmd := 0x90000002 } : State).turns = .engine :: [] := by
  decide

theorem witness_StepRunsDecodedInstruction :
    busy.pend = true ∧ decodeWord busy.lcmd = some .nop ∧ Instr.wellFormed .nop = true ∧
    (plan busy [.engine, .host] []).turns = .engine :: [.host] ∧ busy.turns = [] := by
  decide

theorem witness_EveryAcceptedCommandCompletes :
    (plan busy [.engine] []).pend = true ∧ (plan busy [.engine] []).turns = .engine :: [] := by
  decide

/-- With a command pending, and with none. -/
theorem witness_DefaultScheduleRunsThePendingCommand :
    (busy.turns = [] ∧ busy.pend = true) ∧
    (State.reset.turns = [] ∧ State.reset.pend = false ∧ State.reset.prog = []) := by
  decide

theorem witness_IdleEngineChangesNothing :
    (plan State.reset [.engine] []).pend = false ∧ (plan State.reset [.engine] []).turns = .engine :: [] := by
  decide

theorem witness_WaitEndsAfterTheEngineStep :
    (plan busy (List.replicate 2 .host) [.wait]).pend = true ∧
    (plan busy (List.replicate 2 .host) [.wait]).prog = .wait :: [] ∧
    (plan busy (List.replicate 2 .host) [.wait]).turns = List.replicate 2 .host ∧
    busy.turns = List.replicate 0 .host := by
  decide

/-- The first and the last register of the window. -/
theorem witness_IdleReadsAreExact :
    (plan State.reset [.host] [rd .cmd]).pend = false ∧ (plan State.reset [.host] [rd .cmd]).turns = .host :: [] ∧
    (plan State.reset [.host] [rd .cmd]).prog = rd .cmd :: [] ∧
    (plan State.reset [.host] [rd .params1]).prog = rd .params1 :: [] := by
  decide

/-- One register of each kind: 0, STATUS, exact, free. -/
theorem witness_BusyReadsAreFreshDraws :
    (plan busy [.host] [rd .cmd]).pend = true ∧ (plan busy [.host] [rd .cmd]).turns = .host :: [] ∧
    (plan busy [.host] [rd .cmd]).prog = rd .cmd :: [] ∧ (plan busy [.host] [rd .status]).prog = rd .status :: [] ∧
    (plan busy [.host] [rd .arg2]).prog = rd .arg2 :: [] ∧ (plan busy [.host] [rd .outcnt]).prog = rd .outcnt :: [] := by
  decide

/-- The last offset admitted, the first one outside, and a misaligned one; a read and a write. -/
theorem witness_InadmissibleAccessesAreRefused :
    (plan State.reset [.host] [.read .bits32 (.offset 60)]).prog = .read .bits32 (.offset 60) :: [] ∧
    (plan State.reset [.host] [.write .bits32 (.offset 64) 0]).prog = .write .bits32 (.offset 64) 0 :: [] ∧
    (plan State.reset [.host] [.write .bits8 (.offset 2) 0]).turns = .host :: [] ∧
    ¬ (64 ≤ 60 ∨ 60 % 4 ≠ 0) ∧ (64 ≤ 64 ∨ 64 % 4 ≠ 0) ∧ (64 ≤ 2 ∨ 2 % 4 ≠ 0) := by
  decide

theorem witness_BusAddressesAreRelativeToBase :
    0 < 64 ∧ 63 < 64 ∧ busTarget .bits32 (.offset 60) = .ok .params1 ∧ busTarget .bits32 (.offset 0) = .ok .cmd ∧
    Config.base + 64 ≤ Config.base + 64 :=
  ⟨by decide, by decide, rfl, rfl, le_refl _⟩

theorem witness_IdleCmdWriteIsAccepted :
    (plan State.reset [.host] [wr .cmd 5]).pend = false ∧ (plan State.reset [.host] [wr .cmd 5]).turns = .host :: [] ∧
    (plan State.reset [.host] [wr .cmd 5]).prog = wr .cmd 5 :: [] := by
  decide

theorem witness_BusyCmdWriteIsDropped :
    (plan busy [.host] [wr .cmd 5]).pend = true ∧ (plan busy [.host] [wr .cmd 5]).turns = .host :: [] ∧
    (plan busy [.host] [wr .cmd 5]).prog = wr .cmd 5 :: [] := by
  decide

theorem witness_ArgumentWritesTakeEffectAtOnce :
    (plan busy [.host] [wr .arg0 5]).turns = .host :: [] ∧ (plan busy [.host] [wr .arg0 5]).prog = wr .arg0 5 :: [] ∧
    (plan busy [.host] [wr .arg1 5]).prog = wr .arg1 5 :: [] ∧
    (plan busy [.host] [wr .arg2 5]).prog = wr .arg2 5 :: [] := by
  decide

/-- While busy and while idle. -/
theorem witness_StatusWriteClearsStickyBits :
    (plan busy [.host] [wr .status 0x60]).turns = .host :: [] ∧
    (plan busy [.host] [wr .status 0x60]).prog = wr .status 0x60 :: [] ∧ busy.pend = true ∧
    (plan State.reset [.host] [wr .status 0x60]).prog = wr .status 0x60 :: [] ∧ State.reset.pend = false := by
  decide

theorem witness_ReadOnlyWritesAreIgnored :
    Reg.res0 ∈ [Reg.res0, .res1, .res2, .qsize, .root, .cur, .nalloc, .seq, .outcnt, .params0, .params1] ∧
    (plan State.reset [.host] [wr .res0 5]).turns = .host :: [] ∧
    (plan State.reset [.host] [wr .res0 5]).prog = wr .res0 5 :: [] := by
  decide

theorem witness_InFlightCommandIgnoresArgumentWrites : busy.pend = true ∧ ∃ t, exec .leaf busy = .next t :=
  ⟨by decide, _, rfl⟩

/-- An error of DEC_BIT, two of BUILD (a step that fails, LOCKED), and one of another command. -/
theorem witness_ErrorsArePrecise :
    (∃ t, exec (.decBit true) State.reset = .next t ∧ t.err ≠ .ok) ∧
    (∃ t, exec .build unallocated = .next t ∧ t.err ≠ .ok) ∧ (∃ t, exec .build treed = .next t ∧ t.err ≠ .ok) ∧
    (∃ t, exec .pqExtract State.reset = .next t ∧ t.err ≠ .ok) :=
  ⟨⟨_, rfl, by decide⟩, ⟨_, rfl, by decide⟩, ⟨_, rfl, by decide⟩, ⟨_, rfl, by decide⟩⟩

/-- Each error occurs, and none: LOCKED, NOTREE, BADARG at the first symbol out of range, and a LEAF that succeeds. -/
theorem witness_PhaseTableOfCommands :
    (∃ t, exec .merge treed = .next t ∧ t.err = .locked) ∧ (∃ t, exec .decReset seeded = .next t ∧ t.err = .noTree) ∧
    (∃ t, exec .leaf State.reset = .next t ∧ t.err = .ok) ∧
    (∃ t, exec .leaf (latch treed 0 0 256) = .next t ∧ 2 ^ treed.params.symw ≤ (latch treed 0 0 256).la2.toNat) :=
  ⟨⟨_, rfl, by decide⟩, ⟨_, rfl, by decide⟩, ⟨_, rfl, by decide⟩, ⟨_, rfl, by decide⟩⟩

theorem witness_CommandsAndTheStickyBits :
    (∃ t, exec .nop { State.reset with errs := true } = .next t ∧ t.errs = true) ∧
    (∃ t, exec .clear { State.reset with errs := true } = .next t ∧ t.errs = false) ∧
    (∃ t, exec .merge State.reset = .next t ∧ t.errs = true) :=
  ⟨⟨_, rfl, by decide⟩, ⟨_, rfl, by decide⟩, ⟨_, rfl, by decide⟩⟩

theorem witness_BuildNeverRaisesEmptyQueue : ∃ t, exec .build State.reset = .next t := ⟨_, rfl⟩

theorem witness_CommandsLeaveHostSideStateAlone : ∃ t, exec .build seeded = .next t := ⟨_, rfl⟩

theorem witness_ResultRegistersChangeOnlyAsTabled :
    (∃ t, exec .nop treed = .next t) ∧ (∃ t, exec .merge treed = .next t ∧ t.err ≠ .ok) ∧
    (∃ t, exec (.decBit true) treed = .next t ∧ t.symv = true) ∧
    (∃ t, exec (.decBit true) State.reset = .next t ∧ t.symv = false) ∧ (∃ t, exec .clear treed = .next t) :=
  ⟨⟨_, rfl⟩, ⟨_, rfl, by decide⟩, ⟨_, rfl, by decide⟩, ⟨_, rfl, by decide⟩, ⟨_, rfl⟩⟩

theorem witness_PhaseAndRootChangeOnlyByBuildAndClear :
    (∃ t, exec .build seeded = .next t ∧ t.phase = .built) ∧ (∃ t, exec .clear treed = .next t ∧ t.phase = .load) :=
  ⟨⟨_, rfl, by decide⟩, ⟨_, rfl, by decide⟩⟩

theorem witness_SymbolValidBitIsWrittenByTheDecoder :
    (∃ t, exec (.decBit false) treed = .next t ∧ t.symv = true) ∧
    (∃ t, exec (.decBit false) State.reset = .next t ∧ t.symv = false) ∧
    (∃ t, exec .decReset treed = .next t ∧ t.err = .ok) ∧ (∃ t, exec .clear treed = .next t) ∧
    (∃ t, exec .nop treed = .next t) :=
  ⟨⟨_, rfl, by decide⟩, ⟨_, rfl, by decide⟩, ⟨_, rfl, by decide⟩, ⟨_, rfl⟩, ⟨_, rfl⟩⟩

theorem witness_FinishedTreeIsImmutable :
    treed.phase = .built ∧ Instr.pqExtract ≠ .clear ∧ ∃ t, exec .pqExtract treed = .next t :=
  ⟨by decide, by decide, _, rfl⟩

theorem witness_RecordsAreWrittenOnce : seeded.store.wf = true ∧ 1 < seeded.nalloc ∧ ∃ t, exec .merge seeded = .next t :=
  ⟨by decide, by decide, _, rfl⟩

theorem witness_DecoderWritesOnlyItsOwnState :
    (∃ t, exec .decReset treed = .next t) ∧ (∃ t, exec (.decBit true) treed = .next t) := ⟨⟨_, rfl⟩, ⟨_, rfl⟩⟩

/-- The first key and the first handle out of range; a full queue; an entry that goes in at the last key and handle. -/
theorem witness_PqInsertAddsOneEntry :
    2 ^ State.reset.params.kw ≤ (latch State.reset 0 1024 0).la1.toNat ∧
    2 ^ State.reset.params.hw ≤ (latch State.reset 0 0 512).la2.toNat ∧
    (latch queueFull 0 0 0).queue.length = queueFull.params.qcap ∧
    (latch State.reset 0 1023 511).la1.toNat < 2 ^ State.reset.params.kw ∧
    (latch State.reset 0 1023 511).la2.toNat < 2 ^ State.reset.params.hw ∧
    (latch State.reset 0 1023 511).queue.length ≠ State.reset.params.qcap := by
  decide

theorem witness_ClearDiscardsEngineState :
    treed.phase = .built ∧ ∃ t, exec .clear treed = .next t ∧ t.phase = .load :=
  ⟨by decide, _, rfl, by decide⟩

theorem witness_PqExtractReturnsLeastEntry :
    State.reset.queue = [] ∧ ({ w := 1, k := 0x61, n := 0 } : Entry) ∈ seeded.queue ∧
    ∀ x, x ∈ seeded.queue → ¬ x.Before { w := 1, k := 0x61, n := 0 } := by
  decide

theorem witness_LeastEntryIsUnique :
    ([{ w := 1, k := 2, n := 3 }, { w := 1, k := 2, n := 3 }] : List Entry) ≠ [] := by decide

theorem witness_SuccessiveExtractsRise :
    (∃ t u, exec .pqExtract seeded = .next t ∧ t.err = .ok ∧ exec .pqExtract t = .next u ∧ u.err = .ok) ∧
    ∀ e, e ∈ seeded.queue → e.k < 2 ^ 32 ∧ e.n < 2 ^ 32 :=
  ⟨⟨_, _, rfl, by decide, rfl, by decide⟩, by decide⟩

theorem witness_KeysStayDistinctWithoutInserts :
    seeded.Inv ∧ seeded.KeyPolicy ∧ Instr.merge ≠ .pqInsert ∧ ∃ t, exec .merge seeded = .next t :=
  ⟨witness_seeded_inv, by decide, by decide, _, rfl⟩

/-- Each clause in turn: the first symbol out of range, LOCKED at the last one in range, a symbol in SEEN, a full node store,
a full queue, and a leaf that goes in. -/
theorem witness_LeafAllocatesAndInserts :
    (seeded.store.wf = true ∧ treed.store.wf = true) ∧
    2 ^ seeded.params.symw ≤ (latch seeded 0 0 256).la2.toNat ∧
    ((latch treed 0 0 255).la2.toNat < 2 ^ treed.params.symw ∧ treed.phase = .built) ∧
    ((latch seeded 0 0 0x62).la2.toNat < 2 ^ seeded.params.symw ∧ seeded.phase = .load ∧
      (latch seeded 0 0 0x62).la2.toNat ∈ seeded.seen) ∧
    ((latch storeFull 0 0 0xFF).la2.toNat < 2 ^ storeFull.params.symw ∧ storeFull.phase = .load ∧
      (latch storeFull 0 0 0xFF).la2.toNat ∉ storeFull.seen ∧ storeFull.nalloc = storeFull.params.ncap) ∧
    ((latch queueFull 0 0 0xFF).la2.toNat < 2 ^ queueFull.params.symw ∧ queueFull.phase = .load ∧
      (latch queueFull 0 0 0xFF).la2.toNat ∉ queueFull.seen ∧ queueFull.nalloc ≠ queueFull.params.ncap ∧
      queueFull.queue.length = queueFull.params.qcap) ∧
    ((latch seeded 0 0 0xFF).la2.toNat < 2 ^ seeded.params.symw ∧ (latch seeded 0 0 0xFF).la2.toNat ∉ seeded.seen ∧
      seeded.nalloc ≠ seeded.params.ncap ∧ seeded.queue.length ≠ seeded.params.qcap) := by
  decide

/-- `a` and `b` are the two least entries of the queue of `s`, and `s` is a state that MERGE may act on. -/
abbrev TwoLeast (s : State) (a b : Entry) (q : List Entry) : Prop :=
  s.store.wf = true ∧ s.phase = .load ∧ s.queue.Perm (a :: b :: q) ∧ (∀ x, x ∈ b :: q → ¬ x.Before a) ∧
    ∀ x, x ∈ q → ¬ x.Before b

/-- Each clause in turn: LOCKED, one entry, an unallocated node, a full node store, the first sum that does not fit and one
that does (the last one is `test_merge_largest_sum`). -/
theorem witness_MergeJoinsTheTwoLeastEntries :
    (treed.store.wf = true ∧ treed.phase = .built) ∧
    (({ single with phase := .load } : State).queue.length < 2 ∧ single.store.wf = true) ∧
    (TwoLeast unallocated { w := 1, k := 0, n := 0 } { w := 1, k := 1, n := 0 } [] ∧ unallocated.nalloc ≤ 0) ∧
    (TwoLeast storeFull { w := 1, k := 0x61, n := 0 } { w := 1, k := 0x62, n := 1 } [] ∧ 0 < storeFull.nalloc ∧
      1 < storeFull.nalloc ∧ storeFull.nalloc = storeFull.params.ncap) ∧
    (TwoLeast heavy { w := 1, k := 0x62, n := 1 } { w := 0xFFFFFFFF, k := 0x61, n := 0 } [] ∧ 1 < heavy.nalloc ∧
      0 < heavy.nalloc ∧ heavy.nalloc ≠ heavy.params.ncap ∧ 2 ^ 32 ≤ (1#32).toNat + (0xFFFFFFFF#32).toNat) ∧
    (TwoLeast seeded { w := 1, k := 0x61, n := 0 } { w := 1, k := 0x62, n := 1 } [] ∧ 0 < seeded.nalloc ∧
      1 < seeded.nalloc ∧ seeded.nalloc ≠ seeded.params.ncap ∧ (1#32).toNat + (1#32).toNat < 2 ^ 32) :=
  ⟨by decide, by decide, by decide, by decide, by decide, by decide⟩

/-- Two entries whose merge is made and whose result, the only entry, is the root; two whose merge is not made. -/
theorem witness_BuildRunsMergesThenFixesTheRoot :
    treed.phase = .built ∧
    (∃ u e, seeded.phase = .load ∧ MergeChain 1 seeded u ∧ u.queue = [e] ∧ e.n < u.nalloc) ∧
    (unallocated.phase = .load ∧ MergeChain 0 unallocated unallocated ∧ 1 < unallocated.queue.length ∧
      mergeStep unallocated = .error .badNode) :=
  ⟨by decide, ⟨_, _, by decide, .cons rfl (.refl _), rfl, by decide⟩, by decide, .refl _, by decide, rfl⟩

/-- No entry at all, and one entry whose node is not allocated (V-TB-15): no merge is made. -/
theorem witness_BuildRunsMergesThenFixesTheRoot_ends :
    (State.reset.phase = .load ∧ MergeChain 0 State.reset State.reset ∧ State.reset.queue = []) ∧
    (∃ s : State, s.phase = .load ∧ MergeChain 0 s s ∧ s.queue = [{ w := 5, k := 0, n := 7 }] ∧ s.nalloc ≤ 7) :=
  ⟨⟨by decide, .refl _, rfl⟩,
    ⟨{ State.reset with queue := [{ w := 5, k := 0, n := 7 }] }, by decide, .refl _, rfl, by decide⟩⟩

theorem witness_BuildMakesFewerMergesThanEntries : ∃ u e, mergeStep seeded = .ok (e, u) := ⟨_, _, rfl⟩

/-- With two entries, and with one, where no merge is made and the node store may be full. -/
theorem witness_BuildThatFitsEndsWithTheRoot :
    (seeded.phase = .load ∧ seeded.queue ≠ [] ∧ (∀ e, e ∈ seeded.queue → e.n < seeded.nalloc) ∧
      seeded.nalloc + seeded.queue.length ≤ seeded.params.ncap + 1 ∧ totalWeight seeded.queue < 2 ^ 32 ∧
      2 ≤ seeded.queue.length ∧ seeded.store.wf = true) ∧
    (single.queue ≠ [] ∧ (∀ e, e ∈ single.queue → e.n < single.nalloc) ∧ single.nalloc + single.queue.length ≤ 1 + 1 ∧
      totalWeight single.queue < 2 ^ 32) := by
  decide

/-- The first handle that is not valid, and the last one that is. -/
theorem witness_NodeReadReturnsTheRecord :
    treed.nalloc ≤ treed.params.ncap ∧ treed.params.wellFormed = true ∧ treed.nalloc ≤ (latch treed 0 0 3).la2.toNat ∧
    (latch treed 0 0 2).la2.toNat < treed.nalloc := by
  decide

theorem witness_WeightsStayConsistentWithoutInserts :
    (seeded.Inv ∧ seeded.WeightPolicy ∧ ∃ t, exec .merge seeded = .next t) ∧
    (treed.Inv ∧ treed.WeightPolicy ∧ ∃ t, exec .pqExtract treed = .next t) :=
  ⟨⟨witness_seeded_inv, by decide, _, rfl⟩, ⟨witness_treed_inv, by decide, _, rfl⟩⟩

theorem witness_DecResetReturnsToTheRoot :
    (treed.phase = .built ∧ treed.root ≠ 2 ^ treed.params.hw - 1) ∧
    ¬ (seeded.phase = .built ∧ seeded.root ≠ 2 ^ seeded.params.hw - 1) ∧
    ¬ (({ State.reset with phase := .built } : State).phase = .built ∧ State.reset.root ≠ 2 ^ 9 - 1) := by
  decide

/-- Each clause in turn: no tree; a child that is internal; a child that is a leaf; an absent child at a leaf; an absent child
at an internal node, which only a state outside the invariant has. -/
theorem witness_DecBitWalksOneEdge :
    ¬ (seeded.phase = .built ∧ seeded.root ≠ 2 ^ seeded.params.hw - 1) ∧
    (deeper.phase = .built ∧ deeper.root ≠ 2 ^ deeper.params.hw - 1 ∧
      (deeper.store.read deeper.cur).right ≠ 2 ^ deeper.params.hw - 1 ∧
      (deeper.store.read (deeper.store.read deeper.cur).right).isLeaf deeper.params = false) ∧
    ((deeper.store.read deeper.cur).left ≠ 2 ^ deeper.params.hw - 1 ∧
      (deeper.store.read (deeper.store.read deeper.cur).left).isLeaf deeper.params = true) ∧
    (single.phase = .built ∧ single.root ≠ 2 ^ single.params.hw - 1 ∧
      (single.store.read single.cur).left = 2 ^ single.params.hw - 1 ∧
      (single.store.read single.cur).isLeaf single.params = true) ∧
    (crooked.phase = .built ∧ crooked.root ≠ 2 ^ crooked.params.hw - 1 ∧
      (crooked.store.read crooked.cur).left = 2 ^ crooked.params.hw - 1 ∧
      (crooked.store.read crooked.cur).isLeaf crooked.params = false) ∧
    (single.Inv ∧ deeper.Inv) :=
  ⟨by decide, by decide, by decide, by decide, by decide, witness_single_inv, witness_deeper_inv⟩

theorem witness_SingleSymbolTreeEmitsOnEitherBit :
    single.Inv ∧ single.tree = true ∧ (single.store.read single.root).isLeaf single.params = true :=
  ⟨witness_single_inv, by decide, by decide⟩

theorem witness_DecErrIsNeverRaised :
    treed.Inv ∧ (∃ t, exec (.decBit true) treed = .next t) ∧ treed.tree = true ∧
    (single.Inv ∧ (single.store.read single.cur).child true = single.params.null) :=
  ⟨witness_treed_inv, ⟨_, rfl⟩, by decide, witness_single_inv, by decide⟩

/-- The codes of 'a' and 'b' in the tree of program P4, and no code at all. -/
theorem witness_CodesDecodeToTheirSymbols :
    treed.Inv ∧ treed.tree = true ∧ (treed.store.read treed.root).isLeaf treed.params = false ∧ treed.cur = treed.root ∧
    ∀ c, c ∈ [([false], 0), ([true], 1)] → treed.CodeOf c.1 c.2 :=
  ⟨witness_treed_inv, by decide, by decide, by decide, by decide⟩

/-- The code of 'a' is `10`: after its first bit the walk stands at node 2. -/
theorem witness_IncompleteCodeLeavesMidcode :
    deeper.Inv ∧ deeper.tree = true ∧ deeper.cur = deeper.root ∧ [true] ≠ ([] : List Bool) ∧
    walkFrom deeper.params deeper.store deeper.root [true] = some 2 ∧ (deeper.store.read 2).isLeaf deeper.params = false :=
  ⟨witness_deeper_inv, by decide, by decide, by decide, by decide, by decide⟩

theorem witness_EveryBitStringHasADefinedResult : deeper.Inv ∧ deeper.tree = true ∧ [true, false, true] ≠ [] :=
  ⟨witness_deeper_inv, by decide, by decide⟩

/-- With a command in flight. -/
theorem witness_ResetInputGivesTheResetState :
    (plan busy [.reset, .host] []).turns = .reset :: [.host] ∧ (plan busy [.reset, .host] []).pend = true := by
  decide

theorem witness_ResetInputLeavesTheHostAlone :
    (plan busy [.reset, .host] [.wait]).turns = .reset :: [.host] := by decide

theorem witness_InvariantHoldsAtReset :
    Params.default.wellFormed = true ∧ ({ symw := 1, hw := 2, ncap := 3, kw := 3, qcap := 1 } : Params).wellFormed = true := by
  decide

/-- An engine step that merges, a host access and a reset, each from a state where the invariant holds. -/
theorem witness_EveryStepKeepsTheInvariant :
    (plan { seeded with pend := true, lcmd := 0x30000000 } [.engine] []).Inv ∧
    (∃ t, step (plan { seeded with pend := true, lcmd := 0x30000000 } [.engine] []) = .next t ∧ t.nalloc = 3) ∧
    (∃ t, step (plan seeded [.host] [rd .qsize]) = .next t) ∧ (∃ t, step (plan treed [.reset] []) = .next t) :=
  ⟨witness_seeded_inv.congr rfl rfl rfl rfl rfl rfl rfl rfl rfl (by decide), ⟨_, rfl, by decide⟩, ⟨_, rfl⟩, ⟨_, rfl⟩⟩

end Sys2Proof.Tests
end

/-! SUPPORT. What a command can do, said once: how each of the ten raises an error and how each completes. Every statement
over all commands is proved by cases on these two relations. -/

namespace Sys2Proof.Machine

theorem Phase.eq_load_of_ne_built {p : Phase} (h : p ≠ .built) : p = .load := by
  cases p with
  | load => rfl
  | built => exact absurd rfl h

/-! ### The two ends of a command -/

/-- `Stops s i e u`: in state `s` the command `i` raises `e`, and `u` is what it has made of the state by then (R180): `s`
itself, but for SYMV in DEC_BIT and for the merge steps that BUILD has completed. -/
inductive Stops (s : State) : Instr → ErrCode → State → Prop
  | leafBadArg (hx : ¬ s.SymbolInRange) : Stops s .leaf .badArg s
  | leafLocked (hx : s.SymbolInRange) (hp : s.phase = .built) : Stops s .leaf .locked s
  | leafDupSym (hx : s.SymbolInRange) (hp : s.phase = .load) (hs : s.symbolArg ∈ s.seen) : Stops s .leaf .dupSym s
  | leafAFull (hx : s.SymbolInRange) (hp : s.phase = .load) (hs : s.symbolArg ∉ s.seen)
      (ha : s.nalloc = s.params.ncap) : Stops s .leaf .aFull s
  | leafQFull (hx : s.SymbolInRange) (hp : s.phase = .load) (hs : s.symbolArg ∉ s.seen)
      (ha : s.nalloc ≠ s.params.ncap) (hq : s.queue.length = s.params.qcap) : Stops s .leaf .qFull s
  | mergeLocked (hp : s.phase = .built) : Stops s .merge .locked s
  | mergeFails {e : ErrCode} (hp : s.phase = .load) (hm : mergeStep s = .error e) : Stops s .merge e s
  | buildLocked (hp : s.phase = .built) : Stops s .build .locked s
  | buildFails {n : Nat} {u : State} {e : ErrCode} (hp : s.phase = .load) (hc : MergeChain n s u)
      (hq : 1 < u.queue.length) (hm : mergeStep u = .error e) : Stops s .build e u
  | buildBadNode {n : Nat} {u : State} {x : Entry} (hp : s.phase = .load) (hc : MergeChain n s u) (hq : u.queue = [x])
      (hn : u.nalloc ≤ x.n) : Stops s .build .badNode u
  | insertBadArg (hr : ¬ s.KeyInRange ∨ ¬ s.HandleInRange) : Stops s .pqInsert .badArg s
  | insertQFull (hk : s.KeyInRange) (hh : s.HandleInRange) (hq : s.queue.length = s.params.qcap) :
      Stops s .pqInsert .qFull s
  | extractEmptyQ (hq : s.queue = []) : Stops s .pqExtract .emptyQ s
  | nodeReadBadNode (hn : s.nalloc ≤ s.la2.toNat) : Stops s .nodeRead .badNode s
  | decResetNoTree (ht : s.tree = false) : Stops s .decReset .noTree s
  | decBitNoTree (b : Bool) (ht : s.tree = false) : Stops s (.decBit b) .noTree { s with symv := false }
  | decBitDecErr (b : Bool) (ht : s.tree = true) (hc : (s.store.read s.cur).child b = s.params.null)
      (hl : (s.store.read s.cur).isLeaf s.params = false) : Stops s (.decBit b) .decErr { s with symv := false }

/-- Where DEC_BIT `b` arrives (R152): at the child that `b` names, or where that is absent and CUR a leaf, at CUR again. -/
abbrev State.Arrives (s : State) (b : Bool) (h : Nat) : Prop :=
  ((s.store.read s.cur).child b ≠ s.params.null ∧ h = (s.store.read s.cur).child b) ∨
    ((s.store.read s.cur).child b = s.params.null ∧ (s.store.read s.cur).isLeaf s.params = true ∧ h = s.cur)

/-- `Completes s i u`: in state `s` the command `i` succeeds, and makes `u` of the state before it writes ERR and PEND. -/
inductive Completes (s : State) : Instr → State → Prop
  | nop : Completes s .nop s
  | clear : Completes s .clear s.clearEngine
  | leaf (hx : s.SymbolInRange) (hp : s.phase = .load) (hs : s.symbolArg ∉ s.seen) (ha : s.nalloc ≠ s.params.ncap)
      (hq : s.queue.length ≠ s.params.qcap) :
      Completes s .leaf ((((s.allocate (Node.leaf s.params s.weightArg s.symbolArg)).markSeen s.symbolArg).enqueue
        { w := s.weightArg, k := s.symbolArg, n := s.nalloc }).setResults s.weightArg (zext32 s.symbolArg) (zext32 s.nalloc))
  | merge {e : Entry} {u : State} (hp : s.phase = .load) (hm : mergeStep s = .ok (e, u)) :
      Completes s .merge (u.setResults e.w (zext32 e.k) (zext32 e.n))
  | buildTree {n : Nat} {u : State} {e : Entry} (hp : s.phase = .load) (hc : MergeChain n s u) (hq : u.queue = [e])
      (hn : e.n < u.nalloc) : Completes s .build (u.fixRoot e.n e.w (zext32 e.k) (zext32 e.n))
  | buildEmpty {n : Nat} {u : State} (hp : s.phase = .load) (hc : MergeChain n s u) (hq : u.queue = []) :
      Completes s .build (u.fixRoot u.params.null 0 0 (zext32 u.params.null))
  | insert (hk : s.KeyInRange) (hh : s.HandleInRange) (hq : s.queue.length ≠ s.params.qcap) :
      Completes s .pqInsert (s.enqueue { w := s.weightArg, k := s.keyArg, n := s.handleArg })
  | extract {e : Entry} {q : List Entry} (hm : extractMin s.queue = some (e, q)) :
      Completes s .pqExtract (({ s with queue := q } : State).setResults e.w (zext32 e.k) (zext32 e.n))
  | nodeRead (hn : s.la2.toNat < s.nalloc) :
      Completes s .nodeRead (s.setResults (s.store.read s.handleArg).weight (zext32 (s.store.read s.handleArg).symbol)
        (packChildren (s.store.read s.handleArg).right (s.store.read s.handleArg).left))
  | decReset (ht : s.tree = true) : Completes s .decReset { s with cur := s.root, outcnt := 0, symv := false }
  | move (b : Bool) {h : Nat} (ht : s.tree = true) (ha : s.Arrives b h) (hl : (s.store.read h).isLeaf s.params = false) :
      Completes s (.decBit b) { s with symv := false, cur := h }
  | emit (b : Bool) {h : Nat} (ht : s.tree = true) (ha : s.Arrives b h) (hl : (s.store.read h).isLeaf s.params = true) :
      Completes s (.decBit b) { s with
        res1 := zext32 (s.store.read h).symbol, res2 := zext32 h, symv := true, outcnt := s.outcnt + 1, cur := s.root }

/-- What the command `i` may do to `s` with the answer `t`: raise an error, or complete. -/
abbrev Ends (s : State) (i : Instr) (t : State) : Prop :=
  (∃ e u, Stops s i e u ∧ t = u.raiseErr e) ∨ ∃ u, Completes s i u ∧ t = u.complete

section
variable {s t u : State} {i : Instr} {e : ErrCode}

/-- The two ways a meaning answers, against the two relations. -/
theorem Ends.of_raise (hs : Stops s i e u) (h : raise u e = .next t) : Ends s i t :=
  .inl ⟨e, u, hs, by simpa [raise] using h.symm⟩

theorem Ends.of_finish (hc : Completes s i u) (h : finish u = .next t) : Ends s i t :=
  .inr ⟨u, hc, by simpa [finish] using h.symm⟩

/-! ### Each command -/

theorem execLeaf_ends (h : execLeaf s = .next t) : Ends s .leaf t := by
  unfold execLeaf at h
  split_ifs at h with hx hp hs ha hq
  · exact .of_raise (.leafLocked hx hp) h
  · exact .of_raise (.leafDupSym hx (Phase.eq_load_of_ne_built hp) hs) h
  · exact .of_raise (.leafAFull hx (Phase.eq_load_of_ne_built hp) hs ha) h
  · exact .of_raise (.leafQFull hx (Phase.eq_load_of_ne_built hp) hs ha hq) h
  · exact .of_finish (.leaf hx (Phase.eq_load_of_ne_built hp) hs ha hq) h
  · exact .of_raise (.leafBadArg hx) h

theorem execMerge_ends (h : execMerge s = .next t) : Ends s .merge t := by
  obtain ⟨hp, rfl⟩ | ⟨hp, ⟨e, hm, rfl⟩ | ⟨e, u, hm, rfl⟩⟩ := execMerge_cases h
  · exact .inl ⟨_, _, .mergeLocked hp, rfl⟩
  · exact .inl ⟨_, _, .mergeFails hp hm, rfl⟩
  · exact .inr ⟨_, .merge hp hm, rfl⟩

theorem execBuild_ends (h : execBuild s = .next t) : Ends s .build t := by
  obtain ⟨hp, rfl⟩ | ⟨hp, n, u, hc, hend⟩ := execBuild_cases h
  · exact .inl ⟨_, _, .buildLocked hp, rfl⟩
  · obtain ⟨hq, e, hm, rfl⟩ | ⟨e, hq, hn, rfl⟩ | ⟨e, hq, hn, rfl⟩ | ⟨hq, rfl⟩ := hend
    · exact .inl ⟨_, _, .buildFails hp hc hq hm, rfl⟩
    · exact .inl ⟨_, _, .buildBadNode hp hc hq hn, rfl⟩
    · exact .inr ⟨_, .buildTree hp hc hq hn, rfl⟩
    · exact .inr ⟨_, .buildEmpty hp hc hq, rfl⟩

theorem execPqInsert_ends (h : execPqInsert s = .next t) : Ends s .pqInsert t := by
  unfold execPqInsert at h
  split_ifs at h with hr hq
  · exact .of_raise (.insertBadArg hr) h
  · obtain ⟨hk, hh⟩ : s.KeyInRange ∧ s.HandleInRange := by simpa only [not_or, not_not] using hr
    exact .of_raise (.insertQFull hk hh hq) h
  · obtain ⟨hk, hh⟩ : s.KeyInRange ∧ s.HandleInRange := by simpa only [not_or, not_not] using hr
    exact .of_finish (.insert hk hh hq) h

theorem execPqExtract_ends (h : execPqExtract s = .next t) : Ends s .pqExtract t := by
  unfold execPqExtract at h
  split at h
  · next hm => exact .of_raise (.extractEmptyQ (extractMin_eq_none.mp hm)) h
  · next e q hm => exact .of_finish (.extract hm) h

theorem execNodeRead_ends (h : execNodeRead s = .next t) : Ends s .nodeRead t := by
  unfold execNodeRead at h
  split_ifs at h with hn
  · exact .of_finish (.nodeRead hn) h
  · exact .of_raise (.nodeReadBadNode (Nat.le_of_not_lt hn)) h

theorem execDecReset_ends (h : execDecReset s = .next t) : Ends s .decReset t := by
  unfold execDecReset at h
  split_ifs at h with ht
  · exact .of_finish (.decReset ht) h
  · exact .of_raise (.decResetNoTree (Bool.eq_false_of_not_eq_true ht)) h

theorem arrive_ends {b : Bool} {x : Nat} (ht : s.tree = true) (ha : s.Arrives b x) (h : arrive s x = .next t) :
    Ends s (.decBit b) t := by
  unfold arrive at h
  dsimp only at h
  split_ifs at h with hl
  · exact .of_finish (.emit b ht ha hl) h
  · exact .of_finish (.move b ht ha (Bool.eq_false_of_not_eq_true hl)) h

theorem execDecBit_ends {b : Bool} (h : execDecBit b s = .next t) : Ends s (.decBit b) t := by
  unfold execDecBit raiseDecode at h
  dsimp only at h
  split_ifs at h with ht hc hl
  · exact arrive_ends ht (.inl ⟨hc, rfl⟩) h
  · exact arrive_ends ht (.inr ⟨not_not.mp hc, hl, rfl⟩) h
  · exact .of_raise (.decBitDecErr b ht (not_not.mp hc) (Bool.eq_false_of_not_eq_true hl)) h
  · exact .of_raise (.decBitNoTree b (Bool.eq_false_of_not_eq_true ht)) h

/-- Everything a command can do. -/
theorem exec_ends (h : exec i s = .next t) : Ends s i t := by
  cases i with
  | nop => exact .of_finish .nop h
  | clear => exact .of_finish .clear h
  | leaf => exact execLeaf_ends h
  | merge => exact execMerge_ends h
  | build => exact execBuild_ends h
  | pqInsert => exact execPqInsert_ends h
  | pqExtract => exact execPqExtract_ends h
  | nodeRead => exact execNodeRead_ends h
  | decReset => exact execDecReset_ends h
  | decBit b => exact execDecBit_ends h

end

end Sys2Proof.Machine

/-! SUPPORT. The invariant: what each kind of update of the state needs to keep it, then the commands, the host and the
reset input. -/

namespace Sys2Proof.Machine

/-! ### Updates that touch no clause, or empty the engine -/

section
variable {s t u : State}

/-- With no allocation, no entry and no root, the invariant says only that the parameters, the store and ERR are good. -/
theorem State.Inv.of_empty (hp : t.params.wellFormed = true) (hw : t.store.wf = true) (hn : t.nalloc = 0)
    (hs : t.seq = 0) (hx : t.seen = []) (hq : t.queue = []) (hf : t.phase = .load) (hr : t.root = t.params.null)
    (hc : t.cur = t.params.null) (he : t.err ≠ .decErr) : t.Inv := by
  have ht : ¬ t.tree = true := by simp [State.tree, hf]
  exact {
    params := hp
    store := hw
    nalloc := by omega
    count := by simp [hn, hs, hx]
    records := fun h hh => absurd hh (by omega)
    queue := by simp [hq]
    size := by simp [hq]
    entries := by simp [hq]
    load := fun _ => hr
    noRoot := fun _ => hc
    valid := fun h => absurd h ht
    reached := fun h => absurd h ht
    resting := fun h => absurd h ht
    seenRising := by simp [hx]
    seenLeaves := by simp [hx, hn]
    err := he }

theorem State.Inv.resetWith {p : Params} (hp : p.wellFormed = true) : (State.resetWith p).Inv :=
  .of_empty hp rfl rfl rfl rfl rfl rfl rfl rfl (by simp [State.resetWith])

theorem State.Inv.assertReset (h : s.Inv) : s.assertReset.Inv :=
  .of_empty h.params rfl rfl rfl rfl rfl rfl rfl rfl (by simp [State.assertReset, State.resetWith])

theorem State.Inv.clearEngine (h : s.Inv) : s.clearEngine.Inv :=
  .of_empty h.params h.store rfl rfl rfl rfl rfl rfl rfl h.err

theorem State.Inv.complete (h : s.Inv) : s.complete.Inv :=
  h.congr rfl rfl rfl rfl rfl rfl rfl rfl rfl (by simp)

theorem State.Inv.raiseErr (h : s.Inv) {e : ErrCode} (he : e ≠ .decErr) : (s.raiseErr e).Inv :=
  h.congr rfl rfl rfl rfl rfl rfl rfl rfl rfl he

theorem State.Inv.setResults (h : s.Inv) (a b c : Word) : (s.setResults a b c).Inv :=
  h.congr rfl rfl rfl rfl rfl rfl rfl rfl rfl h.err

/-! ### The pointers ROOT and CUR -/

theorem State.root_ne_null_of_tree (ht : s.tree = true) : s.root ≠ s.params.null := (s.tree_iff.mp ht).2

/-- While TREE = 1, CUR may move to a valid handle that a walk from ROOT reaches and that is no leaf other than ROOT. -/
theorem State.Inv.setCur (h : s.Inv) (ht : s.tree = true) {c : Nat} (hc : c < s.nalloc)
    (hw : ∃ bits, walkFrom s.params s.store s.root bits = some c)
    (hl : (s.store.read c).isLeaf s.params = true → c = s.root) : ({ s with cur := c } : State).Inv :=
  { h with
    noRoot := fun hr => absurd hr (State.root_ne_null_of_tree ht)
    valid := fun _ => ⟨(h.valid ht).1, hc⟩
    reached := fun _ => hw
    resting := fun _ => hl }

/-- While TREE = 1, CUR may go back to ROOT. -/
theorem State.Inv.setCur_root (h : s.Inv) (ht : s.tree = true) : ({ s with cur := s.root } : State).Inv :=
  h.setCur ht (h.valid ht).1 ⟨[], rfl⟩ fun _ => rfl

/-- ROOT may become a valid handle, or NULL, when CUR goes there with it. -/
theorem State.Inv.fixRoot (h : s.Inv) {r : Nat} (hr : r = s.params.null ∨ r < s.nalloc) (a b c : Word) :
    (s.fixRoot r a b c).Inv :=
  { params := h.params
    store := h.store
    nalloc := h.nalloc
    count := h.count
    records := h.records
    queue := h.queue
    size := h.size
    entries := h.entries
    load := fun hp => by simp at hp
    noRoot := id
    valid := fun ht => by
      have hlt : r < s.nalloc := hr.resolve_left (State.root_ne_null_of_tree ht)
      exact ⟨hlt, hlt⟩
    reached := fun _ => ⟨[], rfl⟩
    resting := fun _ _ => rfl
    seenRising := h.seenRising
    seenLeaves := h.seenLeaves
    err := h.err }

/-- Where DEC_BIT arrives at an internal node, it has moved one edge down from CUR, an internal node itself. -/
theorem State.Arrives.of_internal (h : s.Inv) (ht : s.tree = true) {b : Bool} {c : Nat} (ha : s.Arrives b c)
    (hl : (s.store.read c).isLeaf s.params = false) :
    c = (s.store.read s.cur).child b ∧ (s.store.read s.cur).isLeaf s.params = false ∧ c < s.cur := by
  obtain ⟨hne, rfl⟩ | ⟨-, hcur, rfl⟩ := ha
  · obtain ⟨-, hnull⟩ | ⟨hin, hlt⟩ := h.child_cases (h.valid ht).2 b
    · exact absurd hnull hne
    · exact ⟨rfl, hin, hlt⟩
  · rw [hcur] at hl
    cases hl

/-- DEC_BIT keeps the invariant where it moves to an internal node. -/
theorem State.Inv.move (h : s.Inv) (ht : s.tree = true) {b : Bool} {c : Nat} (ha : s.Arrives b c)
    (hl : (s.store.read c).isLeaf s.params = false) : ({ s with cur := c } : State).Inv := by
  obtain ⟨rfl, hin, hlt⟩ := ha.of_internal h ht hl
  obtain ⟨bits, hw⟩ := h.reached ht
  refine h.setCur ht (lt_trans hlt (h.valid ht).2) ⟨bits ++ [b], walkFrom_append hw b hin⟩ fun hleaf => ?_
  rw [hl] at hleaf
  cases hleaf

/-- DEC_BIT finds no absent child at an internal node (R154). -/
theorem State.Inv.not_decErr (h : s.Inv) (ht : s.tree = true) {b : Bool}
    (hc : (s.store.read s.cur).child b = s.params.null) (hl : (s.store.read s.cur).isLeaf s.params = false) : False := by
  have hcur := (h.valid ht).2
  have hnull := h.nalloc_le_null
  obtain ⟨hleaf, -⟩ | ⟨-, hlt⟩ := h.child_cases hcur b
  · rw [hl] at hleaf
    cases hleaf
  · omega

/-! ### The queue -/

/-- The queue may change to a sorted one whose size and entries fit. -/
theorem State.Inv.setQueue (h : s.Inv) {q : List Entry} (hs : queueSorted q) (hn : q.length ≤ s.params.qcap)
    (he : ∀ e, e ∈ q → e.k < 2 ^ s.params.kw ∧ e.n < 2 ^ s.params.hw) : ({ s with queue := q } : State).Inv :=
  { h with queue := hs, size := hn, entries := he }

/-- One more entry that fits goes into a queue that is not full. -/
theorem State.Inv.enqueue (h : s.Inv) (hq : s.queue.length ≠ s.params.qcap) {e : Entry} (hk : e.k < 2 ^ s.params.kw)
    (hn : e.n < 2 ^ s.params.hw) : (s.enqueue e).Inv := by
  refine h.setQueue (insertEntry_sorted e h.queue) ?_ fun x hx => ?_
  · rw [insertEntry_length]
    exact Nat.lt_of_le_of_ne h.size hq
  · obtain rfl | hx := mem_insertEntry.mp hx
    · exact ⟨hk, hn⟩
    · exact h.entries x hx

/-- The least entry leaves. -/
theorem State.Inv.dequeue (h : s.Inv) {e : Entry} {q : List Entry} (hm : extractMin s.queue = some (e, q)) :
    ({ s with queue := q } : State).Inv := by
  refine h.setQueue (extractMin_sorted hm h.queue) ?_ fun x hx => ?_
  · have := extractMin_length hm
    have := h.size
    omega
  · exact h.entries x ((extractMin_perm hm).mem_iff.mpr (List.mem_cons_of_mem e hx))

/-! ### Allocation -/

/-- The store after an allocation: the new record at NALLOC, and every other as it was. -/
theorem State.allocate_read (hw : s.store.wf = true) (n : Node) (x : Nat) :
    (s.allocate n).store.read x = if x = s.nalloc then n else s.store.read x :=
  Memory.read_write hw s.nalloc n x

/-- Symbol `x` has an allocated leaf (R55). -/
abbrev State.HasLeaf (s : State) (x : Nat) : Prop :=
  ∃ h, h < s.nalloc ∧ (s.store.read h).isLeaf s.params = true ∧ (s.store.read h).symbol = x

theorem State.Inv.mem_seen (h : s.Inv) {x : Nat} : x ∈ s.seen ↔ s.HasLeaf x := h.seenLeaves x

/-- The symbols with a leaf after an allocation: those before, and that of the new record if it is a leaf. -/
theorem State.hasLeaf_allocate (hw : s.store.wf = true) (n : Node) (x : Nat) :
    (s.allocate n).HasLeaf x ↔ (n.isLeaf s.params = true ∧ n.symbol = x) ∨ s.HasLeaf x := by
  simp only [State.HasLeaf, State.allocate_read hw, State.allocate_nalloc, State.allocate_params]
  constructor
  · rintro ⟨h, hh, hl, hx⟩
    by_cases hnew : h = s.nalloc
    · simp only [if_pos hnew] at hl hx
      exact .inl ⟨hl, hx⟩
    · simp only [if_neg hnew] at hl hx
      exact .inr ⟨h, by omega, hl, hx⟩
  · rintro (⟨hl, hx⟩ | ⟨h, hh, hl, hx⟩)
    · exact ⟨s.nalloc, by omega, by simpa using hl, by simpa using hx⟩
    · have hold : h ≠ s.nalloc := by omega
      exact ⟨h, by omega, by simpa only [if_neg hold] using hl, by simpa only [if_neg hold] using hx⟩

/-- Every record keeps its shape when one of good shape is allocated (R48). -/
theorem State.Inv.records_allocate (h : s.Inv) {n : Node} (hn : (s.allocate n).RecordShape s.nalloc) :
    ∀ x, x < (s.allocate n).nalloc → (s.allocate n).RecordShape x := by
  intro x hx
  by_cases hnew : x = s.nalloc
  · rw [hnew]
    exact hn
  · have hold := h.records x (Nat.lt_of_le_of_ne (Nat.le_of_lt_succ hx) hnew)
    simpa only [State.RecordShape, State.allocate_read h.store, if_neg hnew, State.allocate_params] using hold

/-- While PHASE = 0 an allocation with a good record keeps the invariant, given what happens to SEEN and SEQ with it. -/
theorem State.Inv.allocate (h : s.Inv) (hp : s.phase = .load) (ha : s.nalloc ≠ s.params.ncap) {n : Node}
    (hn : (s.allocate n).RecordShape s.nalloc) {seen : List Nat} {seq : Nat}
    (hcount : s.nalloc + 1 = seen.length + seq) (hrise : seen.Pairwise (· < ·))
    (hseen : ∀ x, x ∈ seen ↔ (s.allocate n).HasLeaf x) :
    ({ s.allocate n with seen := seen, seq := seq } : State).Inv := by
  have ht : ¬ s.tree = true := by simp [State.tree, hp]
  exact {
    params := h.params
    store := Memory.wf_write h.store s.nalloc n
    nalloc := Nat.lt_of_le_of_ne h.nalloc ha
    count := hcount
    records := h.records_allocate hn
    queue := h.queue
    size := h.size
    entries := h.entries
    load := h.load
    noRoot := h.noRoot
    valid := fun hb => absurd hb ht
    reached := fun hb => absurd hb ht
    resting := fun hb => absurd hb ht
    seenRising := hrise
    seenLeaves := hseen
    err := h.err }

/-! ### Widths -/

/-- NALLOC below the capacity is a handle that fits HW bits. -/
theorem State.Inv.nalloc_lt (h : s.Inv) : s.nalloc < 2 ^ s.params.hw := by
  have := h.nalloc_le_null
  have := Nat.two_pow_pos s.params.hw
  unfold Params.null at *
  omega

/-- A symbol is a key that fits KW bits (R114). -/
theorem State.Inv.symbol_lt (h : s.Inv) {x : Nat} (hx : x < s.params.nsym) : x < 2 ^ s.params.kw := by
  obtain ⟨-, -, -, hkw, -⟩ := wellFormed_bounds h.params
  omega

/-- The key of the next merge fits KW bits (R114): `SEQ ≤ NALLOC`. -/
theorem State.Inv.mergeKey_lt (h : s.Inv) (ha : s.nalloc ≠ s.params.ncap) :
    s.params.nsym + s.seq < 2 ^ s.params.kw := by
  obtain ⟨-, -, -, hkw, -⟩ := wellFormed_bounds h.params
  have := h.nalloc
  have := h.count
  omega

theorem lowBits_lt (v : Word) (w : Nat) : lowBits v w < 2 ^ w := Nat.mod_lt _ (Nat.two_pow_pos w)

/-! ### LEAF and merge steps -/

/-- The leaf that LEAF allocates, with its symbol in SEEN. -/
theorem State.Inv.addLeaf (h : s.Inv) (hp : s.phase = .load) (ha : s.nalloc ≠ s.params.ncap) (w : Word) {x : Nat}
    (hx : x < s.params.nsym) (hs : x ∉ s.seen) : ((s.allocate (Node.leaf s.params w x)).markSeen x).Inv := by
  have hleaf : (Node.leaf s.params w x).isLeaf s.params = true := Node.isLeaf_iff.mpr ⟨rfl, rfl⟩
  refine h.allocate hp ha ?_ (seq := s.seq) ?_ (insertSymbol_rising x h.seenRising) fun y => ?_
  · left
    simpa only [State.allocate_read h.store, if_pos, State.allocate_params] using ⟨rfl, rfl, hx⟩
  · rw [State.allocate_seen, insertSymbol_length hs, h.count]
    omega
  · rw [State.allocate_seen, mem_insertSymbol, State.hasLeaf_allocate h.store, h.mem_seen, and_iff_right hleaf]
    exact or_congr_left eq_comm

/-- The internal node that a merge step allocates, over two valid handles. -/
theorem State.Inv.addInternal (h : s.Inv) (hp : s.phase = .load) (ha : s.nalloc ≠ s.params.ncap) (w : Word) {l r : Nat}
    (hl : l < s.nalloc) (hr : r < s.nalloc) :
    ({ s.allocate (Node.internal w l r) with seq := s.seq + 1 } : State).Inv := by
  have hnull := h.nalloc_le_null
  have hint : ¬ (Node.internal w l r).isLeaf s.params = true := by
    rw [Node.isLeaf_iff]
    rintro ⟨hnull', -⟩
    exact absurd hnull' (Nat.ne_of_lt (lt_of_lt_of_le hl hnull))
  refine h.allocate hp ha ?_ (seen := s.seen) ?_ h.seenRising fun y => ?_
  · right
    simpa only [State.allocate_read h.store, if_pos, State.allocate_params] using ⟨hl, hr, rfl⟩
  · rw [h.count]
    omega
  · rw [State.hasLeaf_allocate h.store, h.mem_seen, or_iff_right fun hy => hint hy.1]

/-- A merge step keeps the invariant, and PHASE = 0. -/
theorem mergeStep_keeps_inv {e : Entry} (hm : mergeStep s = .ok (e, u)) (h : s.phase = .load ∧ s.Inv) :
    u.phase = .load ∧ u.Inv := by
  obtain ⟨hp, hi⟩ := h
  obtain ⟨a, b, q1, q2, ha, hb, han, hbn, hcap, -, hk, hn, rfl⟩ := mergeStep_ok hm
  refine ⟨hp, ?_⟩
  have hq : ({ s with queue := q2 } : State).Inv := (hi.dequeue ha).dequeue hb
  have hroom : q2.length ≠ s.params.qcap := by
    have := extractMin_length ha
    have := extractMin_length hb
    have := hi.size
    omega
  exact (hq.addInternal hp hcap e.w han hbn).enqueue hroom (hk ▸ hi.mergeKey_lt hcap) (hn ▸ hi.nalloc_lt)

/-- A chain of merge steps keeps the invariant, and PHASE = 0. -/
theorem MergeChain.keeps_inv {n : Nat} (hc : MergeChain n s u) (hp : s.phase = .load) (h : s.Inv) : u.Inv :=
  (hc.keeps (P := fun x => x.phase = .load ∧ x.Inv) (fun _ _ _ hm hx => mergeStep_keeps_inv hm hx) ⟨hp, h⟩).2

/-! ### Commands -/

/-- A merge step that stops has an error to report, and it is not DECERR (R127). -/
theorem mergeStep_error_ne {e : ErrCode} (hm : mergeStep s = .error e) : e ≠ .ok ∧ e ≠ .decErr := by
  obtain ⟨rfl, -⟩ | ⟨rfl | rfl | rfl, -⟩ := mergeStep_error hm <;> decide

/-- From a state with the invariant no command raises DECERR, and what an error keeps has the invariant (R154). -/
theorem Stops.keeps_inv {i : Instr} {e : ErrCode} (hs : Stops s i e u) (h : s.Inv) : e ≠ .decErr ∧ u.Inv := by
  cases hs with
  | mergeFails hp hm => exact ⟨(mergeStep_error_ne hm).2, h⟩
  | buildFails hp hc hq hm => exact ⟨(mergeStep_error_ne hm).2, hc.keeps_inv hp h⟩
  | buildBadNode hp hc hq hn => exact ⟨by decide, hc.keeps_inv hp h⟩
  | decBitNoTree b ht => exact ⟨by decide, h.congr rfl rfl rfl rfl rfl rfl rfl rfl rfl h.err⟩
  | decBitDecErr b ht hc hl => exact (h.not_decErr ht hc hl).elim
  | _ => exact ⟨by decide, h⟩

theorem Completes.keeps_inv {i : Instr} (hc : Completes s i u) (h : s.Inv) : u.Inv := by
  cases hc with
  | nop => exact h
  | clear => exact h.clearEngine
  | leaf hx hp hs ha hq =>
    have hsym := lowBits_lt s.la2 s.params.symw
    exact ((h.addLeaf hp ha s.weightArg hsym hs).enqueue hq (h.symbol_lt hsym) h.nalloc_lt).setResults _ _ _
  | merge hp hm => exact (mergeStep_keeps_inv hm ⟨hp, h⟩).2.setResults _ _ _
  | buildTree hp hc hq hn => exact (hc.keeps_inv hp h).fixRoot (.inr hn) _ _ _
  | buildEmpty hp hc hq => exact (hc.keeps_inv hp h).fixRoot (.inl rfl) _ _ _
  | insert hk hh hq => exact h.enqueue hq (lowBits_lt _ _) (lowBits_lt _ _)
  | extract hm => exact (h.dequeue hm).setResults _ _ _
  | nodeRead hn => exact h.setResults _ _ _
  | decReset ht => exact (h.setCur_root ht).congr rfl rfl rfl rfl rfl rfl rfl rfl rfl h.err
  | move b ht ha hl => exact (h.move ht ha hl).congr rfl rfl rfl rfl rfl rfl rfl rfl rfl h.err
  | emit b ht ha hl => exact (h.setCur_root ht).congr rfl rfl rfl rfl rfl rfl rfl rfl rfl h.err

/-- Every command keeps the invariant. -/
theorem exec_keeps_inv {i : Instr} (h : s.Inv) (hx : exec i s = .next t) : t.Inv := by
  obtain ⟨e, u, hs, rfl⟩ | ⟨u, hc, rfl⟩ := exec_ends hx
  · obtain ⟨he, hu⟩ := hs.keeps_inv h
    exact hu.raiseErr he
  · exact (hc.keeps_inv h).complete

/-- The engine step keeps the invariant, whatever the latched word. -/
theorem engineStep_keeps_inv (h : s.Inv) (hx : engineStep s = .next t) : t.Inv := by
  unfold engineStep performLatched at hx
  split at hx
  · split at hx
    · exact exec_keeps_inv h hx
    · obtain rfl : s.raiseErr .illegal = t := by simpa [performIllegal, raise] using hx
      exact h.raiseErr (by decide)
  · obtain rfl : s = t := by simpa using hx
    exact h

/-! ### The host and the schedule -/

/-- A bus write reaches the arguments, the sticky bits and the handshake, and no other state of HUFQ (R77). -/
theorem State.busWrite_frame (s : State) (r : Reg) (v : Word) : s.busWrite r v = { s with
    arg0 := (s.busWrite r v).arg0, arg1 := (s.busWrite r v).arg1, arg2 := (s.busWrite r v).arg2,
    errs := (s.busWrite r v).errs, ovr := (s.busWrite r v).ovr, pend := (s.busWrite r v).pend,
    lcmd := (s.busWrite r v).lcmd, la0 := (s.busWrite r v).la0, la1 := (s.busWrite r v).la1,
    la2 := (s.busWrite r v).la2 } := by
  cases r with
  | cmd =>
    simp only [State.busWrite, State.writeCmd]
    split <;> rfl
  | status =>
    simp only [State.busWrite, State.writeStatus]
    split <;> rfl
  | _ => rfl

/-- A bus read with its record changes nothing but the count of draws and the record (R77). -/
theorem State.hostRead_frame (s : State) (r : Reg) :
    s.hostRead r = { s with reads := (s.hostRead r).reads, draws := (s.hostRead r).draws } := by
  obtain ⟨d, hd⟩ := s.busRead_frame r
  unfold State.hostRead
  rw [hd]
  rfl

theorem State.Inv.busWrite (h : s.Inv) (r : Reg) (v : Word) : (s.busWrite r v).Inv := by
  rw [s.busWrite_frame r v]
  exact h.congr rfl rfl rfl rfl rfl rfl rfl rfl rfl h.err

theorem State.Inv.hostRead (h : s.Inv) (r : Reg) : (s.hostRead r).Inv := by
  rw [s.hostRead_frame r]
  exact h.congr rfl rfl rfl rfl rfl rfl rfl rfl rfl h.err

theorem State.Inv.setProg (h : s.Inv) (ops : List HostOp) : ({ s with prog := ops } : State).Inv :=
  h.congr rfl rfl rfl rfl rfl rfl rfl rfl rfl h.err

/-- Everything the host's turn can do: nothing, one read, or one write, and then its program goes on. -/
theorem hostStep_cases (h : hostStep s = .next t) :
    t = s ∨ (∃ r ops, t = { s.hostRead r with prog := ops }) ∨ ∃ r v ops, t = { s.busWrite r v with prog := ops } := by
  unfold hostStep at h
  split at h
  · exact .inl (by simpa using h.symm)
  · next ops _ => exact .inr (.inl ⟨.status, if s.pend then s.prog else ops, by simpa using h.symm⟩)
  · next ops _ =>
    split at h
    · cases h
    · next r _ => exact .inr (.inl ⟨r, ops, by simpa using h.symm⟩)
  · next v ops _ =>
    split at h
    · cases h
    · next r _ => exact .inr (.inr ⟨r, v, ops, by simpa using h.symm⟩)

theorem hostStep_keeps_inv (h : s.Inv) (hx : hostStep s = .next t) : t.Inv := by
  obtain rfl | ⟨r, ops, rfl⟩ | ⟨r, v, ops, rfl⟩ := hostStep_cases hx
  · exact h
  · exact (h.hostRead r).setProg ops
  · exact (h.busWrite r v).setProg ops

/-- Whoever moves, its turn keeps the invariant. -/
theorem agentStep_keeps_inv {a : Turn} (h : s.Inv) (hx : agentStep a s = .next t) : t.Inv := by
  cases a with
  | host => exact hostStep_keeps_inv h hx
  | engine => exact engineStep_keeps_inv h hx
  | reset =>
    obtain rfl : s.assertReset = t := by simpa [agentStep] using hx
    exact h.assertReset

/-- Taking a turn off the schedule touches no clause of the invariant. -/
theorem nextTurn_keeps_inv (h : s.Inv) : (nextTurn s).2.Inv := by
  unfold nextTurn
  split
  · exact h.congr rfl rfl rfl rfl rfl rfl rfl rfl rfl h.err
  · exact h

end

/-- Settles O56: each agent's turn keeps the invariant, and the schedule is no part of it. -/
theorem everyStepKeepsTheInvariant : Obligations.EveryStepKeepsTheInvariant := by
  intro s t h hx
  exact agentStep_keeps_inv (nextTurn_keeps_inv h) hx

/-- Settles O55: after reset nothing is allocated and there is no root. -/
theorem invariantHoldsAtReset : Obligations.InvariantHoldsAtReset :=
  ⟨.resetWith (by decide), fun _ hp => .resetWith hp⟩

end Sys2Proof.Machine

/-! SUPPORT. What every command leaves unchanged: frames over all commands, each by cases on how the command ends. -/

namespace Sys2Proof.Machine

section
variable {s t u : State} {i : Instr} {e : ErrCode}

/-! ### Frames -/

/-- Merge steps leave everything but the store, NALLOC, SEQ and the queue as it was. -/
theorem MergeChain.frame {n : Nat} (hc : MergeChain n s u) :
    u = { s with store := u.store, nalloc := u.nalloc, seq := u.seq, queue := u.queue } := by
  rw [hc.counts.2]

/-- An error leaves everything but SYMV (DEC_BIT) and the work of completed merge steps (BUILD) as it was (R180). -/
theorem Stops.frame (hs : Stops s i e u) :
    u = { s with symv := u.symv, store := u.store, nalloc := u.nalloc, seq := u.seq, queue := u.queue } := by
  cases hs with
  | buildFails hp hc hq hm => rw [hc.frame]
  | buildBadNode hp hc hq hn => rw [hc.frame]
  | _ => rfl

/-- A command that completes leaves the parameters, the arguments, the latches, OVR and the host's side as they were. -/
theorem Completes.frame (hc : Completes s i u) : u = { s with
    res0 := u.res0, res1 := u.res1, res2 := u.res2, phase := u.phase, errs := u.errs, symv := u.symv, store := u.store,
    nalloc := u.nalloc, seq := u.seq, queue := u.queue, root := u.root, cur := u.cur, outcnt := u.outcnt,
    seen := u.seen } := by
  cases hc with
  | merge hp hm => rw [mergeStep_frame hm]; rfl
  | buildTree hp hc hq hn => rw [hc.frame]; rfl
  | buildEmpty hp hc hq => rw [hc.frame]; rfl
  | _ => rfl

/-- What a command may write: the results, STATUS but OVR, the node store and its counts, the queue, the pointers, OUTCNT
and SEEN; and it clears PEND. -/
theorem exec_frame (h : exec i s = .next t) : t = { s with
    res0 := t.res0, res1 := t.res1, res2 := t.res2, phase := t.phase, err := t.err, errs := t.errs, symv := t.symv,
    store := t.store, nalloc := t.nalloc, seq := t.seq, queue := t.queue, root := t.root, cur := t.cur,
    outcnt := t.outcnt, seen := t.seen, pend := false } := by
  obtain ⟨e, u, hs, rfl⟩ | ⟨u, hc, rfl⟩ := exec_ends h
  · rw [hs.frame]; rfl
  · rw [hc.frame]; rfl

/-! ### STATUS -/

/-- A command that stops has an error to report. -/
theorem Stops.ne_ok (hs : Stops s i e u) : e ≠ .ok := by
  cases hs with
  | mergeFails hp hm => exact (mergeStep_error_ne hm).1
  | buildFails hp hc hq hm => exact (mergeStep_error_ne hm).1
  | _ => decide

/-- CLEAR raises no error. -/
theorem Stops.ne_clear (hs : Stops s i e u) : i ≠ .clear := by
  rintro rfl
  cases hs

/-- A command that completes keeps ERRS, but for CLEAR, which clears it (R42). -/
theorem Completes.errs_iff (hc : Completes s i u) : u.errs = true ↔ s.errs = true ∧ i ≠ .clear := by
  cases hc with
  | merge hp hm => rw [mergeStep_frame hm]; simp
  | buildTree hp hc hq hn => rw [hc.frame]; simp
  | buildEmpty hp hc hq => rw [hc.frame]; simp
  | _ => simp

/-- SYMV is the decoder's and CLEAR's alone to write (R40). -/
theorem Stops.symv (hs : Stops s i e u) (hd : ∀ b, i ≠ .decBit b) : u.symv = s.symv := by
  cases hs with
  | buildFails hp hc hq hm => rw [hc.frame]
  | buildBadNode hp hc hq hn => rw [hc.frame]
  | decBitNoTree b ht => exact absurd rfl (hd b)
  | decBitDecErr b ht hc hl => exact absurd rfl (hd b)
  | _ => rfl

theorem Completes.symv (hc : Completes s i u) (hd : ∀ b, i ≠ .decBit b) (hcl : i ≠ .clear) (hr : i ≠ .decReset) :
    u.symv = s.symv := by
  cases hc with
  | clear => exact absurd rfl hcl
  | merge hp hm => rw [mergeStep_frame hm]; rfl
  | buildTree hp hc hq hn => rw [hc.frame]; rfl
  | buildEmpty hp hc hq => rw [hc.frame]; rfl
  | decReset ht => exact absurd rfl hr
  | move b ht ha hl => exact absurd rfl (hd b)
  | emit b ht ha hl => exact absurd rfl (hd b)
  | _ => rfl

/-! ### The tree -/

theorem State.not_load_of_built (hb : s.phase = .built) (hl : s.phase = .load) : False := by
  rw [hb] at hl
  cases hl

/-- `t` has the tree of `s`: its records, its counts, its root, its symbols and its phase. -/
abbrev State.SameTree (s t : State) : Prop :=
  t.store = s.store ∧ t.nalloc = s.nalloc ∧ t.seq = s.seq ∧ t.root = s.root ∧ t.seen = s.seen ∧ t.phase = s.phase

theorem Stops.sameTree (hs : Stops s i e u) (hb : s.phase = .built) : s.SameTree u := by
  cases hs with
  | buildFails hp hc hq hm => exact (State.not_load_of_built hb hp).elim
  | buildBadNode hp hc hq hn => exact (State.not_load_of_built hb hp).elim
  | _ => exact ⟨rfl, rfl, rfl, rfl, rfl, rfl⟩

theorem Completes.sameTree (hc : Completes s i u) (hb : s.phase = .built) (hcl : i ≠ .clear) : s.SameTree u := by
  cases hc with
  | clear => exact absurd rfl hcl
  | leaf hx hp hs ha hq => exact (State.not_load_of_built hb hp).elim
  | merge hp hm => exact (State.not_load_of_built hb hp).elim
  | buildTree hp hc hq hn => exact (State.not_load_of_built hb hp).elim
  | buildEmpty hp hc hq => exact (State.not_load_of_built hb hp).elim
  | _ => exact ⟨rfl, rfl, rfl, rfl, rfl, rfl⟩

/-- `t` still has the record of `s` at the handle `h`, which stays valid, and its store is in canonical form. -/
abbrev State.KeepsRecord (s : State) (h : Nat) (t : State) : Prop :=
  t.store.wf = true ∧ h < t.nalloc ∧ t.store.read h = s.store.read h

/-- An allocation writes at NALLOC, above every valid handle (R46). -/
theorem State.KeepsRecord.allocate {h : Nat} (hk : s.KeepsRecord h t) (n : Node) : s.KeepsRecord h (t.allocate n) := by
  obtain ⟨hw, hlt, hr⟩ := hk
  refine ⟨Memory.wf_write hw t.nalloc n, Nat.lt_succ_of_lt hlt, ?_⟩
  rw [State.allocate_read hw, if_neg (Nat.ne_of_lt hlt), hr]

theorem mergeStep_keepsRecord {h : Nat} {x : Entry} (hm : mergeStep t = .ok (x, u)) (hk : s.KeepsRecord h t) :
    s.KeepsRecord h u := by
  obtain ⟨a, b, q1, q2, -, -, -, -, -, -, -, -, rfl⟩ := mergeStep_ok hm
  exact hk.allocate (Node.internal x.w a.n b.n)

theorem MergeChain.keepsRecord {n h : Nat} (hc : MergeChain n s u) (hk : s.KeepsRecord h s) : s.KeepsRecord h u :=
  hc.keeps (fun _ _ _ hm => mergeStep_keepsRecord hm) hk

theorem Stops.record {h : Nat} (hs : Stops s i e u) (hk : s.KeepsRecord h s) : u.store.read h = s.store.read h := by
  cases hs with
  | buildFails hp hc hq hm => exact (hc.keepsRecord hk).2.2
  | buildBadNode hp hc hq hn => exact (hc.keepsRecord hk).2.2
  | _ => rfl

theorem Completes.record {h : Nat} (hc : Completes s i u) (hk : s.KeepsRecord h s) :
    u.store.read h = s.store.read h := by
  cases hc with
  | leaf hx hp hs ha hq => exact (hk.allocate _).2.2
  | merge hp hm => exact (mergeStep_keepsRecord hm hk).2.2
  | buildTree hp hc hq hn => exact (hc.keepsRecord hk).2.2
  | buildEmpty hp hc hq => exact (hc.keepsRecord hk).2.2
  | _ => rfl

/-! ### The decoder -/

theorem Stops.of_decBit {b : Bool} (hs : Stops s (.decBit b) e u) : u = { s with symv := false } := by
  cases hs with
  | decBitNoTree _ ht => rfl
  | decBitDecErr _ ht hc hl => rfl

/-- DEC_BIT sets SYMV exactly where it counts a symbol. -/
theorem Completes.symv_decBit {b : Bool} (hc : Completes s (.decBit b) u) :
    (u.symv = false ∧ u.outcnt = s.outcnt) ∨ (u.symv = true ∧ u.outcnt = s.outcnt + 1) := by
  cases hc with
  | move _ ht ha hl => exact .inl ⟨rfl, rfl⟩
  | emit _ ht ha hl => exact .inr ⟨rfl, rfl⟩

/-- A 32-bit count is never its own successor, so OUTCNT tells a DEC_BIT that emits from one that does not. -/
theorem Word.ne_add_one (x : Word) : x ≠ x + 1 := by
  bv_omega

theorem exec_decBit_symv {b : Bool} (h : exec (.decBit b) s = .next t) :
    (t.symv = false ∧ t.outcnt = s.outcnt) ∨ (t.symv = true ∧ t.outcnt = s.outcnt + 1) := by
  obtain ⟨e, u, hs, rfl⟩ | ⟨u, hc, rfl⟩ := exec_ends h
  · rw [hs.of_decBit]
    exact .inl ⟨rfl, rfl⟩
  · exact hc.symv_decBit

/-! ### The result registers -/

/-- `t` has the result registers of `s`. -/
abbrev State.SameResults (s t : State) : Prop := t.res0 = s.res0 ∧ t.res1 = s.res1 ∧ t.res2 = s.res2

theorem Stops.sameResults (hs : Stops s i e u) : s.SameResults u := by
  rw [hs.frame]
  exact ⟨rfl, rfl, rfl⟩

theorem Completes.sameResults (hc : Completes s i u) (hi : i = .nop ∨ i = .pqInsert ∨ i = .decReset) :
    s.SameResults u := by
  obtain rfl | rfl | rfl := hi
  · cases hc with | nop => exact ⟨rfl, rfl, rfl⟩
  · cases hc with | insert hk hh hq => exact ⟨rfl, rfl, rfl⟩
  · cases hc with | decReset ht => exact ⟨rfl, rfl, rfl⟩

/-- DEC_BIT writes RES1 and RES2 where it emits, and RES0 nowhere (R101). -/
theorem Completes.results_decBit {b : Bool} (hc : Completes s (.decBit b) u) :
    u.res0 = s.res0 ∧ (u.symv = false → u.res1 = s.res1 ∧ u.res2 = s.res2) := by
  cases hc with
  | move _ ht ha hl => exact ⟨rfl, fun _ => ⟨rfl, rfl⟩⟩
  | emit _ ht ha hl => exact ⟨rfl, fun hv => by cases hv⟩

end

/-! ### The statements -/

/-- Settles O23: OVR is in no command's reach; an error sets ERRS, and CLEAR alone completes without keeping it. -/
theorem commandsAndTheStickyBits : Obligations.CommandsAndTheStickyBits := by
  intro i s t h
  refine ⟨by rw [exec_frame h], ?_⟩
  obtain ⟨e, u, hs, rfl⟩ | ⟨u, hc, rfl⟩ := exec_ends h
  · simp [hs.ne_ok]
  · simp [hc.errs_iff]

/-- Settles O25: these fields are those that the frame of all commands keeps. -/
theorem commandsLeaveHostSideStateAlone : Obligations.CommandsLeaveHostSideStateAlone := by
  intro i s t h
  rw [exec_frame h]
  exact ⟨rfl, rfl, rfl, rfl, rfl, rfl, rfl, rfl, rfl, rfl, rfl, rfl, rfl⟩

/-- Settles O26: an error keeps the results whatever the command; the others by the command that completes. -/
theorem resultRegistersChangeOnlyAsTabled : Obligations.ResultRegistersChangeOnlyAsTabled := by
  intro i s t h
  obtain ⟨e, u, hs, rfl⟩ | ⟨u, hc, rfl⟩ := exec_ends h
  · obtain ⟨h0, h1, h2⟩ := hs.sameResults
    exact ⟨fun _ => ⟨h0, h1, h2⟩, fun _ => ⟨h0, fun _ => ⟨h1, h2⟩⟩, fun hi => absurd hi hs.ne_clear⟩
  · refine ⟨fun hi => hc.sameResults (by simpa using hi), ?_, ?_⟩
    · rintro ⟨b, rfl⟩
      exact hc.results_decBit
    · rintro rfl
      cases hc with | clear => exact ⟨rfl, rfl, rfl⟩

/-- Settles O27: PHASE and ROOT are written by the end of a BUILD that succeeds and by CLEAR. -/
theorem phaseAndRootChangeOnlyByBuildAndClear : Obligations.PhaseAndRootChangeOnlyByBuildAndClear := by
  intro i s t h
  obtain ⟨e, u, hs, rfl⟩ | ⟨u, hc, rfl⟩ := exec_ends h
  · exact .inr (.inr ⟨hs.ne_clear, by rw [hs.frame]; exact ⟨rfl, rfl⟩⟩)
  · cases hc with
    | clear => exact .inr (.inl ⟨rfl, rfl, rfl⟩)
    | buildTree hp hc hq hn => exact .inl ⟨rfl, rfl, hp, rfl⟩
    | buildEmpty hp hc hq => exact .inl ⟨rfl, rfl, hp, rfl⟩
    | merge hp hm => exact .inr (.inr ⟨by decide, by rw [mergeStep_frame hm]; exact ⟨rfl, rfl⟩⟩)
    | _ => exact .inr (.inr ⟨by simp, rfl, rfl⟩)

/-- Settles O28: DEC_BIT counts exactly what it emits; CLEAR and DEC_RESET write 0; no other command reaches SYMV. -/
theorem symbolValidBitIsWrittenByTheDecoder : Obligations.SymbolValidBitIsWrittenByTheDecoder := by
  intro i s t h
  refine ⟨?_, ?_, fun hd hcl hr => ?_⟩
  · rintro ⟨b, rfl⟩
    have hne := Word.ne_add_one s.outcnt
    obtain ⟨hv, ho⟩ | ⟨hv, ho⟩ := exec_decBit_symv h
    · simp [hv, ho]
    · simp [hv, ho]
  · obtain ⟨e, u, hs, rfl⟩ | ⟨u, hc, rfl⟩ := exec_ends h
    · rintro (hi | ⟨-, hok⟩)
      · exact absurd hi hs.ne_clear
      · exact absurd hok hs.ne_ok
    · rintro (rfl | ⟨rfl, -⟩)
      · cases hc with | clear => rfl
      · cases hc with | decReset ht => rfl
  · obtain ⟨e, u, hs, rfl⟩ | ⟨u, hc, rfl⟩ := exec_ends h
    · exact hs.symv hd
    · exact hc.symv hd hcl hr

/-- Settles O29: the commands that write the tree start from PHASE = 0, but for CLEAR. -/
theorem finishedTreeIsImmutable : Obligations.FinishedTreeIsImmutable := by
  intro i s t hb hcl h
  rw [← hb]
  obtain ⟨e, u, hs, rfl⟩ | ⟨u, hc, rfl⟩ := exec_ends h
  · exact hs.sameTree hb
  · exact hc.sameTree hb hcl

/-- Settles O30: LEAF and merge steps write at NALLOC, above the handle, and no other command writes a record. -/
theorem recordsAreWrittenOnce : Obligations.RecordsAreWrittenOnce := by
  intro i s t h hw hlt hx
  obtain ⟨e, u, hs, rfl⟩ | ⟨u, hc, rfl⟩ := exec_ends hx
  · exact hs.record ⟨hw, hlt, rfl⟩
  · exact hc.record ⟨hw, hlt, rfl⟩

end Sys2Proof.Machine

/-! SUPPORT. The STATUS word bit by bit, and single turns of the engine and of the host. -/

namespace Sys2Proof.Machine

section
variable {s : State}

/-! ### Turns -/

/-- With a legal word latched the engine performs its command (R57, R97). -/
theorem engineStep_decoded {i : Instr} (hp : s.pend = true) (hd : decodeWord s.lcmd = some i) :
    engineStep s = exec i s := by
  rw [engineStep_pending hp, performLatched, hd]

/-- With no command pending the engine idles (R57). -/
theorem engineStep_idle (hp : s.pend = false) : engineStep s = .next s := by
  rw [engineStep, hp]
  rfl

/-- The host's turn with a write to a register next (R106). -/
theorem hostStep_wr {r : Reg} {v : Word} {rest : List HostOp} (h : s.prog = wr r v :: rest) :
    hostStep s = .next { s.busWrite r v with prog := rest } := by
  rw [wr] at h
  simp only [hostStep, h, busTarget_offset]

/-- A step in which the host writes a register. -/
theorem step_wr {ts : List Turn} {r : Reg} {v : Word} {rest : List HostOp} (ht : s.turns = .host :: ts)
    (h : s.prog = wr r v :: rest) :
    step s = .next { ({ s with turns := ts } : State).busWrite r v with prog := rest } := by
  rw [step_host ht]
  exact hostStep_wr h

/-! ### The STATUS register (R37, R42) -/

theorem State.writeStatus_busy (hp : s.pend = true) (v : Word) : s.writeStatus v = s := if_pos hp

theorem State.writeStatus_idle (hp : s.pend = false) (v : Word) :
    s.writeStatus v = { s with errs := s.errs && !v.getLsbD 5, ovr := s.ovr && !v.getLsbD 6 } := by
  rw [State.writeStatus, hp]
  rfl

theorem Phase.bit_eq_true {p : Phase} : p.bit = true ↔ p = .built := by
  cases p with
  | load => decide
  | built => decide

theorem State.midcode_iff : s.midcode = true ↔ s.tree = true ∧ s.cur ≠ s.root := by
  simp [State.midcode]

/-- The single bits of the STATUS word below ERR. -/
theorem State.statusWord_lowBits (s : State) :
    s.statusWord.getLsbD 0 = s.pend ∧ s.statusWord.getLsbD 1 = s.phase.bit ∧ s.statusWord.getLsbD 2 = s.tree ∧
    s.statusWord.getLsbD 3 = s.symv ∧ s.statusWord.getLsbD 4 = s.midcode ∧ s.statusWord.getLsbD 5 = s.errs ∧
    s.statusWord.getLsbD 6 = s.ovr ∧ s.statusWord.getLsbD 7 = false := by
  simp only [State.statusWord, BitVec.getLsbD_append, BitVec.getLsbD_ofBool]
  simp

/-- ERR stands in bits 11:8 of the STATUS word. -/
theorem State.statusWord_err (s : State) : s.statusWord.extractLsb' 8 4 = s.err.code := by
  ext j hj
  rw [BitVec.getElem_extractLsb', ← BitVec.getLsbD_eq_getElem]
  simp only [State.statusWord, BitVec.getLsbD_append]
  interval_cases j <;> simp

/-- Bits 31:12 of the STATUS word read 0. -/
theorem State.statusWord_high (s : State) {j : Nat} (hj : 12 ≤ j) : s.statusWord.getLsbD j = false := by
  obtain ⟨k, rfl⟩ := Nat.exists_eq_add_of_le' hj
  simp only [State.statusWord, BitVec.getLsbD_append]
  simp

end

/-! ### The statements -/

/-- Settles O5: the engine's turn comes from the schedule or, with none listed, from PEND. -/
theorem stepRunsDecodedInstruction : Obligations.StepRunsDecodedInstruction := by
  intro s i hp hd _
  constructor
  · intro ts ht
    rw [step_engine ht]
    exact engineStep_decoded hp hd
  · intro ht
    rw [step_engine_pending ht hp]
    exact engineStep_decoded hp hd

/-- Settles O7: the engine step is not enabled. -/
theorem idleEngineChangesNothing : Obligations.IdleEngineChangesNothing := by
  intro s ts hp ht
  rw [step_engine ht]
  exact engineStep_idle hp

/-- Settles O11: the bits one by one, with TREE and MIDCODE written out. -/
theorem statusWordFields : Obligations.StatusWordFields := by
  intro s
  obtain ⟨hpend, hphase, htree, hsymv, hmid, herrs, hovr, hres⟩ := s.statusWord_lowBits
  rw [hpend, hphase, htree, hsymv, hmid, herrs, hovr, State.midcode_iff, s.tree_iff, and_assoc]
  exact ⟨.rfl, Phase.bit_eq_true, .rfl, .rfl, .rfl, .rfl, .rfl, hres, s.statusWord_err, fun _ hj => s.statusWord_high hj⟩

/-- Settles O17: a write to an argument register does not look at PEND. -/
theorem argumentWritesTakeEffectAtOnce : Obligations.ArgumentWritesTakeEffectAtOnce := by
  intro s v rest ts ht
  exact ⟨fun h => step_wr ht h, fun h => step_wr ht h, fun h => step_wr ht h⟩

/-- Settles O18: a write to STATUS reaches ERRS and OVR, and only while idle. -/
theorem statusWriteClearsStickyBits : Obligations.StatusWriteClearsStickyBits := by
  intro s v rest ts ht h
  have hstep := step_wr ht h
  rw [State.busWrite] at hstep
  by_cases hp : s.pend = true
  · rw [State.writeStatus_busy (s := { s with turns := ts }) hp] at hstep
    exact ⟨_, hstep, rfl, fun _ => ⟨rfl, rfl⟩, fun hidle => absurd hp (by simp [hidle])⟩
  · rw [State.writeStatus_idle (s := { s with turns := ts }) (Bool.eq_false_of_not_eq_true hp)] at hstep
    exact ⟨_, hstep, rfl, fun hbusy => absurd hbusy hp, fun _ => by simp⟩

/-- Settles O53: the table of R61 in numbers, and CLEAR against it field by field. -/
theorem resetAndClearValues : Obligations.ResetAndClearValues :=
  ⟨by decide, fun _ => rfl⟩

end Sys2Proof.Machine

/-! SUPPORT. The host's bus accesses: which are refused, what a read returns, what a write does; and that no command
depends on the argument registers. -/

namespace Sys2Proof.Machine

section
variable {s : State}

/-! ### Admission (R75) -/

/-- Inside the window the offsets without a register are the misaligned ones (R72). -/
theorem regAt_eq_none_iff : ∀ o < 64, (regAt o = none ↔ o % 4 ≠ 0) := by decide

/-- The accesses that reach no register, by width, window and alignment. -/
theorem busTarget_eq_error_iff {size : AccessSize} {o : Nat} :
    (∃ r, busTarget size (.offset o) = .error r) ↔ size ≠ .bits32 ∨ 64 ≤ o ∨ o % 4 ≠ 0 := by
  by_cases hsize : size = .bits32
  · by_cases ho : o < 64
    · have hreg := regAt_eq_none_iff o ho
      have hwindow : ¬ 64 ≤ o := Nat.not_le_of_lt ho
      cases hr : regAt o with
      | none => simp [busTarget, BusAddr.windowOffset, hsize, ho, hr, hreg.mp hr]
      | some r =>
        have haligned : o % 4 = 0 := by simpa [hr] using hreg
        simp [busTarget, BusAddr.windowOffset, hsize, ho, hr, hwindow, haligned]
    · simp [busTarget, BusAddr.windowOffset, hsize, ho, Nat.le_of_not_lt ho]
  · simp [busTarget, hsize]

/-- The host's turn with a read or a write next: refused as its access is, and else a next state. -/
theorem hostStep_access {size : AccessSize} {addr : BusAddr} {v : Word} {rest : List HostOp}
    (h : s.prog = .read size addr :: rest ∨ s.prog = .write size addr v :: rest) :
    (∃ r, busTarget size addr = .error r ∧ hostStep s = .refused r) ∨
      ∃ reg t, busTarget size addr = .ok reg ∧ hostStep s = .next t := by
  cases hb : busTarget size addr with
  | error r =>
    left
    obtain h | h := h
    · exact ⟨r, rfl, by simp only [hostStep, h, hb]⟩
    · exact ⟨r, rfl, by simp only [hostStep, h, hb]⟩
  | ok reg =>
    right
    obtain h | h := h
    · exact ⟨reg, { s.hostRead reg with prog := rest }, rfl, by simp only [hostStep, h, hb]⟩
    · exact ⟨reg, { s.busWrite reg v with prog := rest }, rfl, by simp only [hostStep, h, hb]⟩

/-! ### Reads (R80, R82) -/

/-- A step in which the host reads a register. -/
theorem step_rd {ts : List Turn} {r : Reg} {rest : List HostOp} (ht : s.turns = .host :: ts)
    (h : s.prog = rd r :: rest) :
    step s = .next { ({ s with turns := ts } : State).hostRead r with prog := rest } := by
  rw [rd] at h
  rw [step_host ht]
  simp only [hostStep, h, busTarget_offset]

/-- A read while idle records the exact value and draws nothing (R82). -/
theorem State.hostRead_idle (hp : s.pend = false) (r : Reg) : s.hostRead r = s.recordRead r (s.regValue r) := by
  have hread : s.busRead r = (s.regValue r, s) := by simp [State.busRead, hp]
  rw [State.hostRead, hread]

/-- A read while a command is in flight records what R80 allows it. -/
theorem State.hostRead_busy (hp : s.pend = true) (r : Reg) :
    s.hostRead r = (s.busyRead r).2.recordRead r (s.busyRead r).1 := by
  have hread : s.busRead r = s.busyRead r := if_pos hp
  rw [State.hostRead, hread]

/-- BUSY is 1 in STATUS as read while a command is in flight, and every other bit is free (R80). -/
theorem busyStatus_bits (v : Word) :
    (busyStatus v).getLsbD 0 = true ∧ ∀ j, 0 < j → (busyStatus v).getLsbD j = v.getLsbD j := by
  unfold busyStatus
  refine ⟨by simp, fun j hj => ?_⟩
  have hone : (1#32).getLsbD j = false := by simp [BitVec.getLsbD_one]; omega
  simp [hone]

/-! ### Writes (R77 to R79) -/

theorem State.writeCmd_busy (hp : s.pend = true) (v : Word) : s.writeCmd v = { s with ovr := true } := if_pos hp

theorem State.writeCmd_idle (hp : s.pend = false) (v : Word) : s.writeCmd v = s.acceptCmd v := by
  rw [State.writeCmd, hp]
  rfl

/-- A write to a read-only register is ignored (R77). -/
theorem State.busWrite_readOnly {r : Reg}
    (hr : r ∈ [Reg.res0, .res1, .res2, .qsize, .root, .cur, .nalloc, .seq, .outcnt, .params0, .params1]) (v : Word) :
    s.busWrite r v = s := by
  cases r with
  | cmd | status | arg0 | arg1 | arg2 => simp at hr
  | _ => rfl

end

/-! ### No command depends on the argument registers (R81) -/

/-- The state with other contents of ARG0 to ARG2. -/
def State.withArgs (s : State) (a b c : Word) : State := { s with arg0 := a, arg1 := b, arg2 := c }

/-- The outcome with other contents of ARG0 to ARG2 in its next state. -/
def Result.withArgs (r : Result) (a b c : Word) : Result :=
  match r with
  | .next s => .next (s.withArgs a b c)
  | .fault f => .fault f
  | .refused f => .refused f

section
variable (s : State) (a b c : Word)

@[simp] theorem State.withArgs_queue : (s.withArgs a b c).queue = s.queue := rfl

theorem execLeaf_withArgs : execLeaf (s.withArgs a b c) = Result.withArgs (execLeaf s) a b c := by
  simp only [execLeaf, apply_ite (Result.withArgs · a b c)]
  rfl

/-- A merge step reads the queue, the counts and the parameters (R127). -/
theorem mergeStep_withArgs :
    mergeStep (s.withArgs a b c) = (mergeStep s).map (Prod.map id (State.withArgs · a b c)) := by
  unfold mergeStep
  rw [State.withArgs_queue]
  cases extractMin s.queue with
  | none => rfl
  | some x =>
    dsimp only
    cases extractMin x.2 with
    | none => rfl
    | some y =>
      dsimp only
      cases addWeights x.1.w y.1.w with
      | none => simp only [apply_ite (Except.map _)]; rfl
      | some w => simp only [apply_ite (Except.map _)]; rfl

theorem execMerge_withArgs : execMerge (s.withArgs a b c) = Result.withArgs (execMerge s) a b c := by
  simp only [execMerge, mergeStep_withArgs, apply_ite (Result.withArgs · a b c)]
  cases mergeStep s with
  | error e => rfl
  | ok x => rfl

/-- BUILD's loop reads what its merge steps read (R129). -/
theorem buildLoop_withArgs (fuel : Nat) :
    buildLoop fuel (s.withArgs a b c) = Prod.map id (State.withArgs · a b c) (buildLoop fuel s) := by
  induction fuel generalizing s with
  | zero => rfl
  | succ fuel ih =>
    simp only [buildLoop, mergeStep_withArgs, apply_ite (Prod.map id (State.withArgs · a b c))]
    cases mergeStep s with
    | error e => rfl
    | ok x =>
      simp only [Except.map, Prod.map_snd, ih]
      rfl

theorem execBuild_withArgs : execBuild (s.withArgs a b c) = Result.withArgs (execBuild s) a b c := by
  simp only [execBuild, State.withArgs_queue, buildLoop_withArgs, apply_ite (Result.withArgs · a b c)]
  obtain ⟨o, u⟩ := buildLoop s.queue.length s
  cases o with
  | some e => rfl
  | none =>
    simp only [Prod.map_apply, id, State.withArgs_queue]
    cases minEntry u.queue with
    | none => rfl
    | some e => simp only [apply_ite (Result.withArgs · a b c)]; rfl

theorem execPqInsert_withArgs : execPqInsert (s.withArgs a b c) = Result.withArgs (execPqInsert s) a b c := by
  simp only [execPqInsert, apply_ite (Result.withArgs · a b c)]
  rfl

theorem execPqExtract_withArgs : execPqExtract (s.withArgs a b c) = Result.withArgs (execPqExtract s) a b c := by
  rw [execPqExtract, execPqExtract, State.withArgs_queue]
  cases extractMin s.queue with
  | none => rfl
  | some x => rfl

theorem execNodeRead_withArgs : execNodeRead (s.withArgs a b c) = Result.withArgs (execNodeRead s) a b c := by
  simp only [execNodeRead, apply_ite (Result.withArgs · a b c)]
  rfl

theorem execDecReset_withArgs : execDecReset (s.withArgs a b c) = Result.withArgs (execDecReset s) a b c := by
  simp only [execDecReset, apply_ite (Result.withArgs · a b c)]
  rfl

theorem arrive_withArgs (h : Nat) : arrive (s.withArgs a b c) h = Result.withArgs (arrive s h) a b c := by
  simp only [arrive, apply_ite (Result.withArgs · a b c)]
  rfl

theorem execDecBit_withArgs (d : Bool) :
    execDecBit d (s.withArgs a b c) = Result.withArgs (execDecBit d s) a b c := by
  simp only [execDecBit, apply_ite (Result.withArgs · a b c), ← arrive_withArgs]
  rfl

end

/-- A command does the same whatever ARG0 to ARG2 hold: it works on the latches (R56, R81). -/
theorem exec_withArgs (i : Instr) (s : State) (a b c : Word) :
    exec i (s.withArgs a b c) = Result.withArgs (exec i s) a b c := by
  cases i with
  | nop => rfl
  | clear => rfl
  | leaf => exact execLeaf_withArgs s a b c
  | merge => exact execMerge_withArgs s a b c
  | build => exact execBuild_withArgs s a b c
  | pqInsert => exact execPqInsert_withArgs s a b c
  | pqExtract => exact execPqExtract_withArgs s a b c
  | nodeRead => exact execNodeRead_withArgs s a b c
  | decReset => exact execDecReset_withArgs s a b c
  | decBit d => exact execDecBit_withArgs s a b c d

/-! ### The statements -/

/-- Settles O13: a step of the host is refused exactly where its access reaches no register. -/
theorem inadmissibleAccessesAreRefused : Obligations.InadmissibleAccessesAreRefused := by
  intro s size o v rest ts ht h
  rw [step_host ht, ← busTarget_eq_error_iff]
  obtain ⟨r, hb, hs⟩ | ⟨reg, t, hb, hs⟩ := hostStep_access (s := { s with turns := ts }) h
  · simp [hb, hs]
  · simp [hb, hs]

/-- Settles O20: a write to one argument leaves the other two, which the command does not write either. -/
theorem inFlightCommandIgnoresArgumentWrites : Obligations.InFlightCommandIgnoresArgumentWrites := by
  intro i s t v hp h
  have hcomm (a b c : Word) : exec i (s.withArgs a b c) = .next (t.withArgs a b c) := by
    rw [exec_withArgs, h]
    rfl
  obtain ⟨-, h0, h1, h2, -⟩ := commandsLeaveHostSideStateAlone i s t h
  have hw0 : t.withArgs v s.arg1 s.arg2 = t.busWrite .arg0 v := by rw [← h1, ← h2]; rfl
  have hw1 : t.withArgs s.arg0 v s.arg2 = t.busWrite .arg1 v := by rw [← h0, ← h2]; rfl
  have hw2 : t.withArgs s.arg0 s.arg1 v = t.busWrite .arg2 v := by rw [← h0, ← h1]; rfl
  rw [← hw0, ← hw1, ← hw2]
  exact ⟨rfl, hcomm v s.arg1 s.arg2, rfl, hcomm s.arg0 v s.arg2, rfl, hcomm s.arg0 s.arg1 v,
    State.writeStatus_busy hp v⟩

/-- Settles O9: an idle read records the register's value and draws nothing. -/
theorem idleReadsAreExact : Obligations.IdleReadsAreExact := by
  intro s r rest ts hp ht h
  rw [step_rd ht h, State.hostRead_idle (s := { s with turns := ts }) hp]
  cases r <;> rfl

/-- Settles O10: each register is read exactly or by one draw; in STATUS the draw gives all bits but BUSY. -/
theorem busyReadsAreFreshDraws : Obligations.BusyReadsAreFreshDraws := by
  intro s r rest ts hp ht h
  rw [step_rd ht h, State.hostRead_busy (s := { s with turns := ts }) hp]
  cases r with
  | status =>
    obtain ⟨hbusy, hfree⟩ := busyStatus_bits (Config.freeWord s.draws)
    exact ⟨_, _, rfl, hbusy, hfree, rfl⟩
  | _ => exact ⟨_, _, rfl, rfl, rfl⟩

/-- Settles O15: while idle a CMD write is the accepted write of R78. -/
theorem idleCmdWriteIsAccepted : Obligations.IdleCmdWriteIsAccepted := by
  intro s v rest ts hp ht h
  rw [step_wr ht h, State.busWrite, State.writeCmd_idle (s := { s with turns := ts }) hp]
  rfl

/-- Settles O16: while busy a CMD write reaches OVR alone (R79). -/
theorem busyCmdWriteIsDropped : Obligations.BusyCmdWriteIsDropped := by
  intro s v rest ts hp ht h
  rw [step_wr ht h, State.busWrite, State.writeCmd_busy (s := { s with turns := ts }) hp]

/-- Settles O19: a write to a register that is not CMD, STATUS or an argument has no effect. -/
theorem readOnlyWritesAreIgnored : Obligations.ReadOnlyWritesAreIgnored := by
  intro s r v rest ts hr ht h
  rw [step_wr ht h, State.busWrite_readOnly hr]

end Sys2Proof.Machine

/-! SUPPORT. The command word: the fields of a decoded word, and that a word decodes to a command exactly when it is the
command's encoding. -/

namespace Sys2Proof

/-! ### Fields (R96) -/

/-- The fields of the encoding of every command. -/
theorem encode_fields (i : Instr) : Laws.WordFields.Statement i := by
  cases i with
  | nop => exact Laws.WordFields.nop
  | clear => exact Laws.WordFields.clear
  | leaf => exact Laws.WordFields.leaf
  | merge => exact Laws.WordFields.merge
  | build => exact Laws.WordFields.build
  | pqInsert => exact Laws.WordFields.pqInsert
  | pqExtract => exact Laws.WordFields.pqExtract
  | nodeRead => exact Laws.WordFields.nodeRead
  | decReset => exact Laws.WordFields.decReset
  | decBit b => exact Laws.WordFields.decBit b

/-- OP, RSV and B make up the whole word. -/
theorem Word.eq_of_fields {v w : Word} (hop : opField v = opField w) (hv : rsvField v = 0) (hw : rsvField w = 0)
    (hb : bField v = bField w) : v = w := by
  have hop : v.toNat / 2 ^ 28 = w.toNat / 2 ^ 28 := by rw [← opField_toNat, ← opField_toNat, hop]
  have hb : v.toNat % 2 = 1 ↔ w.toNat % 2 = 1 := by rw [← bField_eq_true, ← bField_eq_true, hb]
  rw [rsvField_eq_zero] at hv hw
  apply BitVec.eq_of_toNat_eq
  omega

/-! ### Decode against encode (R97, R102) -/

theorem instrOfOp_opcode (i : Instr) : instrOfOp (opcode i) (operandBit i) = .ok i := by
  cases i with
  | _ => rfl

/-- The opcode map read backwards: an opcode names one command. -/
theorem opcode_of_instrOfOp {op : BitVec 4} {b : Bool} {i : Instr} (h : instrOfOp op b = .ok i) : op = opcode i := by
  unfold instrOfOp at h
  split at h <;> cases h
  all_goals next hop => exact BitVec.eq_of_toNat_eq hop

/-- Where B is 1 in DEC_BIT alone, B is the operand bit of the command that the opcode map gives (R99). -/
theorem operandBit_of_instrOfOp {op : BitVec 4} {b : Bool} {i : Instr} (h : instrOfOp op b = .ok i)
    (hb : b = true → op = 0x9) : b = operandBit i := by
  obtain rfl := opcode_of_instrOfOp h
  cases i with
  | decBit c => exact Instr.decBit.inj (Except.ok.inj h)
  | _ => exact Bool.eq_false_of_not_eq_true fun hset => absurd (hb hset) (by decide)

/-- The three checks of R97, passed. -/
abbrev LegalFields (v : Word) : Prop :=
  (opField v).toNat < 0xA ∧ rsvField v = 0 ∧ (bField v = true → opField v = 0x9)

theorem LegalFields.of_decodeWord {v : Word} {i : Instr} (h : decodeWord v = some i) : LegalFields v := by
  have hnone : decodeWord v ≠ none := by simp [h]
  refine ⟨Nat.lt_of_not_le fun hop => ?_, by_contra fun hrsv => ?_, fun hset => by_contra fun hne => ?_⟩
  · exact hnone (decodeWord_eq_none_of_illegal (.inl hop))
  · exact hnone (decodeWord_eq_none_of_illegal (.inr (.inl hrsv)))
  · exact hnone (decodeWord_eq_none_of_illegal (.inr (.inr ⟨hne, hset⟩)))

/-- Once the checks are passed the opcode map decides. -/
theorem LegalFields.decodeWord_eq_some_iff {v : Word} {i : Instr} (h : LegalFields v) :
    decodeWord v = some i ↔ instrOfOp (opField v) (bField v) = .ok i := by
  obtain ⟨hop, hrsv, hb⟩ := h
  rw [decodeWord, decode, if_neg (Nat.not_le_of_lt hop), if_neg (not_not.mpr hrsv),
    if_neg fun hbit => hbit.1 (hb hbit.2)]
  cases instrOfOp (opField v) (bField v) with
  | ok j => simp
  | error r => simp

/-- The encoding of every command passes the checks. -/
theorem legalFields_encode (i : Instr) : LegalFields (encode i) := by
  obtain ⟨hop, hlt, hrsv, hb, hbit⟩ := encode_fields i
  refine ⟨hop.symm ▸ hlt, hrsv, fun hset => ?_⟩
  rw [hop, hbit (hb.symm.trans hset)]
  rfl

theorem decodeWord_encode (i : Instr) : decodeWord (encode i) = some i := by
  obtain ⟨hop, -, -, hb, -⟩ := encode_fields i
  rw [(legalFields_encode i).decodeWord_eq_some_iff, hop, hb]
  exact instrOfOp_opcode i

theorem eq_encode_of_decodeWord {v : Word} {i : Instr} (h : decodeWord v = some i) : v = encode i := by
  have hlegal := LegalFields.of_decodeWord h
  have hi := hlegal.decodeWord_eq_some_iff.mp h
  obtain ⟨-, hrsv, hbit⟩ := hlegal
  obtain ⟨hop, -, hrsv', hb, -⟩ := encode_fields i
  exact Word.eq_of_fields ((opcode_of_instrOfOp hi).trans hop.symm) hrsv hrsv'
    ((operandBit_of_instrOfOp hi hbit).trans hb.symm)

/-- A word names a command exactly when it is the command's encoding (R102). -/
theorem decodeWord_eq_some_iff_encode {v : Word} {i : Instr} : decodeWord v = some i ↔ v = encode i := by
  constructor
  · exact eq_encode_of_decodeWord
  · rintro rfl
    exact decodeWord_encode i

theorem Instr.wellFormed_eq_true (i : Instr) : i.wellFormed = true := by
  cases i with
  | _ => rfl

/-! ### The statements -/

/-- Settles O3: the fields of a word that decodes are those of the encoding, and they make up the word. -/
theorem decodeAndEncodeAgree : Obligations.DecodeAndEncodeAgree :=
  ⟨fun i _ => decodeWord_encode i, fun _ i h => ⟨(eq_encode_of_decodeWord h).symm, i.wellFormed_eq_true⟩⟩

/-- Settles O2: the table lists the encodings. -/
theorem legalWordsAreTheOpcodeMap : Obligations.LegalWordsAreTheOpcodeMap := by
  intro v i
  rw [decodeWord_eq_some_iff_encode]
  cases i with
  | decBit b =>
    cases b with
    | _ => exact .rfl
  | _ => exact .rfl

/-- Settles O1: twelve closed decodes. -/
theorem sampleWordsDecodeAsTabled : Obligations.SampleWordsDecodeAsTabled := by
  unfold Obligations.SampleWordsDecodeAsTabled
  decide

end Sys2Proof

/-! SUPPORT. That every accepted command gives a next state, what a poll of `wait` does, and the run of a host
in `wait`. -/

namespace Sys2Proof.Machine

section
variable {s : State}

/-! ### The engine always completes (R214) -/

theorem execLeaf_next (s : State) : ∃ t, execLeaf s = .next t := by
  unfold execLeaf
  split_ifs <;> exact ⟨_, rfl⟩

theorem execMerge_next (s : State) : ∃ t, execMerge s = .next t := by
  unfold execMerge
  split
  · exact ⟨_, rfl⟩
  · split
    · exact ⟨_, rfl⟩
    · exact ⟨_, rfl⟩

theorem execPqInsert_next (s : State) : ∃ t, execPqInsert s = .next t := by
  unfold execPqInsert
  split_ifs <;> exact ⟨_, rfl⟩

theorem execPqExtract_next (s : State) : ∃ t, execPqExtract s = .next t := by
  unfold execPqExtract
  split <;> exact ⟨_, rfl⟩

theorem execNodeRead_next (s : State) : ∃ t, execNodeRead s = .next t := by
  unfold execNodeRead
  split <;> exact ⟨_, rfl⟩

theorem execDecReset_next (s : State) : ∃ t, execDecReset s = .next t := by
  unfold execDecReset
  split <;> exact ⟨_, rfl⟩

theorem arrive_next (s : State) (h : Nat) : ∃ t, arrive s h = .next t := by
  unfold arrive
  dsimp only
  split <;> exact ⟨_, rfl⟩

theorem execDecBit_next (b : Bool) (s : State) : ∃ t, execDecBit b s = .next t := by
  unfold execDecBit
  dsimp only
  split_ifs
  · exact arrive_next s _
  · exact arrive_next s _
  · exact ⟨_, rfl⟩
  · exact ⟨_, rfl⟩

/-- No command faults and none is refused (R16, R181). -/
theorem exec_next (i : Instr) (s : State) : ∃ t, exec i s = .next t := by
  cases i with
  | nop => exact ⟨_, rfl⟩
  | clear => exact ⟨_, rfl⟩
  | leaf => exact execLeaf_next s
  | merge => exact execMerge_next s
  | build => exact execBuild_next s
  | pqInsert => exact execPqInsert_next s
  | pqExtract => exact execPqExtract_next s
  | nodeRead => exact execNodeRead_next s
  | decReset => exact execDecReset_next s
  | decBit b => exact execDecBit_next b s

/-- The engine step completes the pending word, legal or not, and leaves the host's side alone (R57, R168, R214). -/
theorem engineStep_completes (hp : s.pend = true) :
    ∃ t, engineStep s = .next t ∧ t.pend = false ∧ t.prog = s.prog ∧ t.turns = s.turns ∧ t.reads = s.reads := by
  rw [engineStep_pending hp, performLatched]
  cases decodeWord s.lcmd with
  | none => exact ⟨_, rfl, rfl, rfl, rfl, rfl⟩
  | some i =>
    obtain ⟨t, ht⟩ := exec_next i s
    refine ⟨t, ht, ?_⟩
    rw [exec_frame ht]
    exact ⟨rfl, rfl, rfl, rfl⟩

/-! ### Polls (R106) -/

theorem State.hostRead_reads_length (s : State) (r : Reg) : (s.hostRead r).reads.length = s.reads.length + 1 := by
  obtain ⟨d, hd⟩ := s.busRead_frame r
  simp [State.hostRead, hd]

/-- A poll is one read of STATUS; it ends `wait` exactly when no command is pending. -/
theorem hostStep_wait {rest : List HostOp} (h : s.prog = .wait :: rest) :
    ∃ t, hostStep s = .next t ∧ t.prog = (if s.pend then .wait :: rest else rest) ∧ t.pend = s.pend ∧
      t.turns = s.turns ∧ t.reads.length = s.reads.length + 1 := by
  refine ⟨{ s.hostRead .status with prog := if s.pend then .wait :: rest else rest }, by simp [hostStep, h], rfl, ?_⟩
  refine ⟨?_, ?_, s.hostRead_reads_length .status⟩
  · rw [s.hostRead_frame .status]
  · rw [s.hostRead_frame .status]

/-! ### Runs -/

theorem run_succ_of_step {M : Host.Core} {s t : M.State} (h : M.step s = .next t) (n : Nat) :
    M.run (n + 1) s = M.run n t := by
  rw [Host.Core.run, h]

/-- With no turn listed, the engine step and one poll end `wait` (log entry 5). -/
theorem run_wait_unscheduled {rest : List HostOp} (hp : s.pend = true) (h : s.prog = .wait :: rest)
    (ht : s.turns = []) :
    ∃ t, core.run 2 s = .next t ∧ t.pend = false ∧ t.prog = rest ∧ t.reads.length = s.reads.length + 1 := by
  obtain ⟨u, hu, hup, huprog, hut, hur⟩ := engineStep_completes hp
  obtain ⟨t, hs, hprog, hpend, -, hreads⟩ := hostStep_wait (huprog.trans h)
  refine ⟨t, ?_, hpend.trans hup, by simpa [hup] using hprog, by rw [hreads, hur]⟩
  rw [run_succ_of_step (M := core) ((step_engine_pending ht hp).trans hu),
    run_succ_of_step (M := core) ((step_host_idle (hut.trans ht) hup).trans hs)]
  rfl

end

/-! ### The statement -/

/-- Settles O8, by induction on the number of polls before the engine moves: each is one read and leaves the host in
`wait`. -/
theorem waitEndsAfterTheEngineStep : Obligations.WaitEndsAfterTheEngineStep := by
  intro n
  induction n with
  | zero => exact fun s rest hp h ht => run_wait_unscheduled hp h ht
  | succ n ih =>
    intro s rest hp h ht
    obtain ⟨u, hu, hprog, hpend, hturns, hreads⟩ :=
      hostStep_wait (s := { s with turns := List.replicate n .host }) h
    obtain ⟨t, hrun, htp, htprog, htreads⟩ := ih u rest (hpend.trans hp) (by simpa [hp] using hprog) hturns
    refine ⟨t, ?_, htp, htprog, by simp only [htreads, hreads]; omega⟩
    rw [run_succ_of_step (M := core) ((step_host ht).trans hu)]
    exact hrun

end Sys2Proof.Machine

/-! SUPPORT. The queue commands: what each answers in each of its cases, and the key policy under every command but
PQ_INSERT. -/

namespace Sys2Proof.Machine

section
variable {s t u : State}

/-! ### The words of the commands -/

/-- The encoding of a command is its one word (R102). -/
theorem onlyWord_encode (i : Instr) : OnlyWord i (encode i) := fun _ => decodeWord_eq_some_iff_encode

/-! ### Field widths -/

theorem lowBits_eq_toNat {v : Word} {w : Nat} (h : v.toNat < 2 ^ w) : lowBits v w = v.toNat := Nat.mod_eq_of_lt h

theorem toNat_zext32 {n : Nat} (h : n < 2 ^ 32) : (zext32 n).toNat = n := Nat.mod_eq_of_lt h

/-! ### PQ_INSERT (R112), case by case -/

theorem exec_pqInsert_badArg (h : ¬ s.KeyInRange ∨ ¬ s.HandleInRange) : exec .pqInsert s = raise s .badArg := if_pos h

theorem exec_pqInsert_inRange (hk : s.KeyInRange) (hn : s.HandleInRange) :
    exec .pqInsert s = if s.queue.length = s.params.qcap then raise s .qFull
      else finish (s.enqueue { w := s.la0, k := s.la1.toNat, n := s.la2.toNat }) := by
  rw [← lowBits_eq_toNat hk, ← lowBits_eq_toNat hn]
  exact if_neg (not_or.mpr ⟨not_not.mpr hk, not_not.mpr hn⟩)

/-! ### PQ_EXTRACT (R113), case by case -/

theorem exec_pqExtract_empty (h : s.queue = []) : exec .pqExtract s = raise s .emptyQ := by
  rw [exec, execPqExtract, extractMin_eq_none.mpr h]

theorem exec_pqExtract_least {e : Entry} (hmem : e ∈ s.queue) (hmin : ∀ x ∈ s.queue, ¬ x.Before e) :
    exec .pqExtract s =
      finish (({ s with queue := s.queue.erase e } : State).setResults e.w (zext32 e.k) (zext32 e.n)) := by
  rw [exec, execPqExtract, extractMin_of_least hmem hmin]

/-- A command that answers with ERR = 0 has completed: an error is never reported as 0 (R175). -/
theorem exec_completes {i : Instr} (h : exec i s = .next t) (hok : t.err = .ok) :
    ∃ u, Completes s i u ∧ t = u.complete := by
  obtain ⟨e, u, hs, rfl⟩ | hc := exec_ends h
  · exact absurd hok hs.ne_ok
  · exact hc

/-- What a PQ_EXTRACT that succeeds has done. -/
theorem exec_pqExtract_ok (h : exec .pqExtract s = .next t) (hok : t.err = .ok) :
    ∃ e, extractMin s.queue = some (e, t.queue) ∧ t.res0 = e.w ∧ t.res1 = zext32 e.k ∧ t.res2 = zext32 e.n := by
  obtain ⟨u, hc, rfl⟩ := exec_completes h hok
  cases hc with
  | extract hm => exact ⟨_, hm, rfl, rfl, rfl⟩

/-! ### The order field by field (R110) -/

/-- The fields of two entries of which the second does not come before the first. -/
theorem Entry.fields_of_not_before {a b : Entry} (h : ¬ b.Before a) :
    a.w.toNat < b.w.toNat ∨ (a.w = b.w ∧ a.k < b.k) ∨ (a.w = b.w ∧ a.k = b.k ∧ a.n ≤ b.n) := by
  rw [← BitVec.toNat_inj]
  unfold Entry.Before at h
  omega

/-! ### The key policy (R114, R115) -/

/-- A key that the policy allows: a symbol in SEEN, or the key of a merge already made (R114). -/
abbrev State.AdmitsKey (s : State) (k : Nat) : Prop :=
  (k < s.params.nsym ∧ k ∈ s.seen) ∨ (s.params.nsym ≤ k ∧ k < s.params.nsym + s.seq)

theorem State.AdmitsKey.mono {k : Nat} (h : s.AdmitsKey k) (hp : t.params = s.params) (hs : s.seen ⊆ t.seen)
    (hn : s.seq ≤ t.seq) : t.AdmitsKey k := by
  unfold State.AdmitsKey
  rw [hp]
  obtain ⟨hlt, hk⟩ | ⟨hge, hlt⟩ := h
  · exact .inl ⟨hlt, hs hk⟩
  · exact .inr ⟨hge, by omega⟩

theorem State.KeyPolicy.admits (h : s.KeyPolicy) {e : Entry} (he : e ∈ s.queue) : s.AdmitsKey e.k := h.2 e he

/-- Entries may leave, symbols may join SEEN and merges may be counted. -/
theorem State.KeyPolicy.mono (h : s.KeyPolicy) (hq : t.queue.Sublist s.queue) (hp : t.params = s.params)
    (hs : s.seen ⊆ t.seen) (hn : s.seq ≤ t.seq) : t.KeyPolicy := by
  have hkeys : ∀ e ∈ t.queue, t.AdmitsKey e.k := fun e he => (h.admits (hq.subset he)).mono hp hs hn
  obtain ⟨hnodup, -⟩ := h
  exact ⟨hnodup.sublist (hq.map _), hkeys⟩

/-- An entry may join with a key that the policy allows and no entry has. -/
theorem State.KeyPolicy.enqueue (h : s.KeyPolicy) {e : Entry} (ha : s.AdmitsKey e.k)
    (hfresh : ∀ x ∈ s.queue, x.k ≠ e.k) : (s.enqueue e).KeyPolicy := by
  obtain ⟨hnodup, hkeys⟩ := h
  constructor
  · rw [State.enqueue_queue, ((insertEntry_perm e s.queue).map Entry.k).nodup_iff, List.map_cons, List.nodup_cons]
    refine ⟨fun hmem => ?_, hnodup⟩
    obtain ⟨x, hx, hk⟩ := List.mem_map.mp hmem
    exact hfresh x hx hk
  · intro x hx
    obtain rfl | hx := mem_insertEntry.mp hx
    · exact ha
    · exact hkeys x hx

theorem extractMin_sublist {q q' : List Entry} {e : Entry} (h : extractMin q = some (e, q')) : q'.Sublist q := by
  obtain ⟨-, -, rfl⟩ := extractMin_spec h
  exact List.erase_sublist

/-- The key of a merge step is above every key so far: symbols are below NSYM, earlier merges below `NSYM + SEQ`. -/
theorem mergeStep_keeps_keyPolicy {e : Entry} (hm : mergeStep s = .ok (e, u)) (h : s.KeyPolicy) : u.KeyPolicy := by
  obtain ⟨a, b, q1, q2, ha, hb, -, -, -, -, hk, -, rfl⟩ := mergeStep_ok hm
  have hsub : q2.Sublist s.queue := (extractMin_sublist hb).trans (extractMin_sublist ha)
  have hrest : ({ s.allocate (Node.internal e.w a.n b.n) with seq := s.seq + 1, queue := q2 } : State).KeyPolicy :=
    h.mono hsub rfl (List.Subset.refl _) (Nat.le_succ _)
  refine hrest.enqueue (.inr ?_) fun x hx => ?_
  · simp [hk]
  · obtain ⟨hlt, -⟩ | ⟨-, hlt⟩ := h.admits (hsub.subset hx)
    · omega
    · omega

theorem MergeChain.keeps_keyPolicy {n : Nat} (hc : MergeChain n s u) (h : s.KeyPolicy) : u.KeyPolicy :=
  hc.keeps (fun _ _ _ hm hs => mergeStep_keeps_keyPolicy hm hs) h

/-- The key of a new leaf is its symbol: no entry has it, since the symbol was not in SEEN and merge keys are above it. -/
theorem State.KeyPolicy.addLeaf (h : s.KeyPolicy) (n : Node) {e : Entry} (hk : e.k < s.params.nsym)
    (hs : e.k ∉ s.seen) : (((s.allocate n).markSeen e.k).enqueue e).KeyPolicy := by
  have hseen : ((s.allocate n).markSeen e.k).KeyPolicy :=
    h.mono (List.Sublist.refl _) rfl (fun _ hx => mem_insertSymbol.mpr (.inr hx)) le_rfl
  refine hseen.enqueue (.inl ⟨hk, mem_insertSymbol.mpr (.inl rfl)⟩) fun x hx heq => ?_
  obtain ⟨-, hmem⟩ | ⟨hge, -⟩ := h.admits hx
  · exact hs (heq ▸ hmem)
  · omega

/-- An error keeps the queue, SEEN and SEQ, but for the merge steps that BUILD has completed (R180). -/
theorem Stops.keeps_keyPolicy {i : Instr} {e : ErrCode} (hs : Stops s i e u) (h : s.KeyPolicy) : u.KeyPolicy := by
  cases hs with
  | buildFails hp hc hq hm => exact hc.keeps_keyPolicy h
  | buildBadNode hp hc hq hn => exact hc.keeps_keyPolicy h
  | _ => exact h

theorem Completes.keeps_keyPolicy {i : Instr} (hc : Completes s i u) (hi : i ≠ .pqInsert) (h : s.KeyPolicy) :
    u.KeyPolicy := by
  cases hc with
  | clear => exact ⟨List.nodup_nil, fun _ he => absurd he List.not_mem_nil⟩
  | leaf hx hp hs ha hq => exact h.addLeaf _ (lowBits_lt s.la2 s.params.symw) hs
  | merge hp hm =>
    have hstep := mergeStep_keeps_keyPolicy hm h
    exact hstep
  | buildTree hp hc hq hn => exact hc.keeps_keyPolicy h
  | buildEmpty hp hc hq => exact hc.keeps_keyPolicy h
  | insert hk hh hq => exact absurd rfl hi
  | extract hm => exact h.mono (extractMin_sublist hm) rfl (List.Subset.refl _) le_rfl
  | _ => exact h

end

/-! ### The statements -/

/-- Settles O34: the two checks in order, then one insertion of the latched arguments, which are in range. -/
theorem pqInsertAddsOneEntry : Obligations.PqInsertAddsOneEntry := by
  refine ⟨onlyWord_encode .pqInsert, fun s => ⟨fun h => ?_, fun hk hn hq => ?_, fun hk hn hq => ?_⟩⟩
  · exact exec_pqInsert_badArg (h.imp Nat.not_lt_of_le Nat.not_lt_of_le)
  · rw [exec_pqInsert_inRange hk hn, if_pos hq]
    rfl
  · rw [exec_pqInsert_inRange hk hn, if_neg hq]
    exact ⟨_, rfl, rfl, insertEntry_perm _ _⟩

/-- Settles O35: the least entry is the one that the extraction takes, and one copy of it is erased. -/
theorem pqExtractReturnsLeastEntry : Obligations.PqExtractReturnsLeastEntry := by
  refine ⟨onlyWord_encode .pqExtract, fun s => ⟨fun h => exec_pqExtract_empty h, fun e hmem hmin => ?_⟩⟩
  exact ⟨_, exec_pqExtract_least hmem hmin, rfl, List.perm_cons_erase hmem⟩

/-- Settles O36: `minEntry` answers some entry of a non-empty queue, and answers every least entry. -/
theorem leastEntryIsUnique : Obligations.LeastEntryIsUnique := by
  intro q hq
  obtain ⟨e, he⟩ := Option.ne_none_iff_exists'.mp (mt minEntry_eq_none.mp hq)
  exact ⟨e, minEntry_spec he, he, fun e' hmem hmin => Option.some.inj ((minEntry_of_least hmem hmin).symm.trans he)⟩

/-- Settles O37: the second entry was in the queue when the first one left as the least, and the results show both whole. -/
theorem successiveExtractsRise : Obligations.SuccessiveExtractsRise := by
  intro s t u ht htok hu huok hwidth
  obtain ⟨a, ha, ha0, ha1, ha2⟩ := exec_pqExtract_ok ht htok
  obtain ⟨b, hb, hb0, hb1, hb2⟩ := exec_pqExtract_ok hu huok
  obtain ⟨hamem, hamin, -⟩ := extractMin_spec ha
  have hbmem : b ∈ s.queue := (extractMin_sublist ha).subset (extractMin_spec hb).1
  obtain ⟨hak, han⟩ := hwidth a hamem
  obtain ⟨hbk, hbn⟩ := hwidth b hbmem
  rw [ha0, ha1, ha2, hb0, hb1, hb2, toNat_zext32 hak, toNat_zext32 han, toNat_zext32 hbk, toNat_zext32 hbn]
  exact (Entry.fields_of_not_before (hamin b hbmem)).imp_right (.imp_right fun ⟨hw, hk, hn⟩ => ⟨hw, hk ▸ rfl, hn⟩)

/-- Settles O38: by cases on how the command ends; LEAF and merge steps bring fresh keys, and the others bring none. -/
theorem keysStayDistinctWithoutInserts : Obligations.KeysStayDistinctWithoutInserts := by
  intro i s t _ h hi hx
  obtain ⟨e, u, hs, rfl⟩ | ⟨u, hc, rfl⟩ := exec_ends hx
  · exact hs.keeps_keyPolicy h
  · exact hc.keeps_keyPolicy hi h

end Sys2Proof.Machine

/-! SUPPORT. The tree builder commands: what each answers in each of its cases, BUILD along its merge steps, and the weight
policy under every command but PQ_INSERT. -/

namespace Sys2Proof.Machine

theorem Phase.ne_built_of_eq_load {p : Phase} (h : p = .load) : p ≠ .built := by
  rw [h]
  decide

section
variable {s t u : State}

/-! ### LEAF (R126), case by case -/

theorem exec_leaf_badArg (h : ¬ s.SymbolInRange) : exec .leaf s = raise s .badArg := if_pos h

theorem exec_leaf_locked (hx : s.SymbolInRange) (hp : s.phase = .built) : exec .leaf s = raise s .locked := by
  rw [exec, execLeaf, if_neg (not_not.mpr hx), if_pos hp]

/-- LEAF past its checks on the argument and on PHASE: LA2 is the symbol. -/
theorem exec_leaf_load (hx : s.SymbolInRange) (hp : s.phase = .load) :
    exec .leaf s = if s.la2.toNat ∈ s.seen then raise s .dupSym
      else if s.nalloc = s.params.ncap then raise s .aFull
      else if s.queue.length = s.params.qcap then raise s .qFull
      else finish ((((s.allocate (Node.leaf s.params s.la0 s.la2.toNat)).markSeen s.la2.toNat).enqueue
        { w := s.la0, k := s.la2.toNat, n := s.nalloc }).setResults s.la0 s.la2 (zext32 s.nalloc)) := by
  have hsym : s.symbolArg = s.la2.toNat := lowBits_eq_toNat hx
  have hres : zext32 s.la2.toNat = s.la2 := by simp [zext32]
  rw [exec, execLeaf, if_neg (not_not.mpr hx), if_neg (Phase.ne_built_of_eq_load hp), hsym, hres, State.weightArg]

/-! ### Merge steps (R127), case by case -/

/-- Where an entry precedes all others of the queue, extraction takes it and leaves the others. -/
theorem extractMin_of_perm {q r : List Entry} {e : Entry} (hq : q.Perm (e :: r)) (hmin : ∀ x ∈ r, ¬ x.Before e) :
    ∃ q', extractMin q = some (e, q') ∧ q'.Perm r := by
  refine ⟨q.erase e, extractMin_of_least (hq.mem_iff.mpr List.mem_cons_self) fun x hx => ?_, ?_⟩
  · obtain rfl | hx := List.mem_cons.mp (hq.mem_iff.mp hx)
    · exact Entry.not_before_self x
    · exact hmin x hx
  · have herase := hq.erase e
    rwa [List.erase_cons_head] at herase

theorem exists_extractMin {q : List Entry} (h : q ≠ []) : ∃ e q', extractMin q = some (e, q') := by
  obtain ⟨x, hx⟩ := Option.ne_none_iff_exists'.mp (mt extractMin_eq_none.mp h)
  exact ⟨x.1, x.2, hx⟩

/-- The two entries that a merge step joins, and what is left of the queue. -/
theorem exists_extractMin_two {q : List Entry} (h : 2 ≤ q.length) :
    ∃ a b q1 q2, extractMin q = some (a, q1) ∧ extractMin q1 = some (b, q2) := by
  obtain ⟨a, q1, ha⟩ := exists_extractMin (List.ne_nil_of_length_pos (by omega : 0 < q.length))
  have hlen := extractMin_length ha
  obtain ⟨b, q2, hb⟩ := exists_extractMin (List.ne_nil_of_length_pos (by omega : 0 < q1.length))
  exact ⟨a, b, q1, q2, ha, hb⟩

theorem extractMin_two_perm {q q1 q2 : List Entry} {a b : Entry} (ha : extractMin q = some (a, q1))
    (hb : extractMin q1 = some (b, q2)) : q.Perm (a :: b :: q2) :=
  (extractMin_perm ha).trans ((extractMin_perm hb).cons a)

/-- A merge step needs two entries (R127). -/
theorem mergeStep_two_le {e : Entry} (h : mergeStep s = .ok (e, u)) : 2 ≤ s.queue.length := by
  obtain ⟨a, b, q1, q2, ha, hb, -⟩ := mergeStep_ok h
  have := extractMin_length ha
  have := extractMin_length hb
  omega

theorem mergeStep_emptyQ (h : s.queue.length < 2) : mergeStep s = .error .emptyQ := by
  cases hm : mergeStep s with
  | ok x => exact absurd (mergeStep_two_le hm) (Nat.not_le_of_lt h)
  | error e =>
    obtain ⟨rfl, -⟩ | ⟨-, htwo⟩ := mergeStep_error hm
    · rfl
    · exact absurd htwo (Nat.not_le_of_lt h)

section
variable {a b : Entry} {q1 q2 : List Entry} (ha : extractMin s.queue = some (a, q1))
  (hb : extractMin q1 = some (b, q2))

include ha hb

theorem mergeStep_badNode (hn : ¬ s.Valid a.n ∨ ¬ s.Valid b.n) : mergeStep s = .error .badNode := by
  simp only [mergeStep, ha, hb, if_pos hn]

theorem mergeStep_aFull (han : s.Valid a.n) (hbn : s.Valid b.n) (hcap : s.nalloc = s.params.ncap) :
    mergeStep s = .error .aFull := by
  have hn : ¬ (¬ s.Valid a.n ∨ ¬ s.Valid b.n) := by tauto
  simp only [mergeStep, ha, hb, if_neg hn, if_pos hcap]

theorem mergeStep_wOvf (han : s.Valid a.n) (hbn : s.Valid b.n) (hcap : s.nalloc ≠ s.params.ncap)
    (hw : 2 ^ 32 ≤ a.w.toNat + b.w.toNat) : mergeStep s = .error .wOvf := by
  have hn : ¬ (¬ s.Valid a.n ∨ ¬ s.Valid b.n) := by tauto
  have hsum : addWeights a.w b.w = none := if_pos hw
  simp only [mergeStep, ha, hb, if_neg hn, if_neg hcap, hsum]

theorem mergeStep_merges (han : s.Valid a.n) (hbn : s.Valid b.n) (hcap : s.nalloc ≠ s.params.ncap)
    (hw : a.w.toNat + b.w.toNat < 2 ^ 32) :
    mergeStep s = .ok ({ w := a.w + b.w, k := s.params.nsym + s.seq, n := s.nalloc },
      { s.allocate (Node.internal (a.w + b.w) a.n b.n) with
        seq := s.seq + 1, queue := insertEntry { w := a.w + b.w, k := s.params.nsym + s.seq, n := s.nalloc } q2 }) := by
  have hn : ¬ (¬ s.Valid a.n ∨ ¬ s.Valid b.n) := by tauto
  have hsum : addWeights a.w b.w = some (a.w + b.w) := addWeights_of_fits hw
  simp only [mergeStep, ha, hb, if_neg hn, if_neg hcap, hsum]

end

/-! ### MERGE (R128), case by case -/

theorem exec_merge_locked (hp : s.phase = .built) : exec .merge s = raise s .locked := if_pos hp

theorem exec_merge_error (hp : s.phase = .load) {e : ErrCode} (hm : mergeStep s = .error e) :
    exec .merge s = raise s e := by
  rw [exec, execMerge, if_neg (Phase.ne_built_of_eq_load hp), hm]

theorem exec_merge_ok (hp : s.phase = .load) {e : Entry} (hm : mergeStep s = .ok (e, u)) :
    exec .merge s = finish (u.setResults e.w (zext32 e.k) (zext32 e.n)) := by
  rw [exec, execMerge, if_neg (Phase.ne_built_of_eq_load hp), hm]

/-! ### BUILD (R129) along its merge steps -/

/-- A merge step leaves its new entry in the queue, with the newest handle and key. -/
abbrev State.HoldsNewest (s : State) : Prop :=
  ∃ e ∈ s.queue, e.n + 1 = s.nalloc ∧ e.k + 1 = s.params.nsym + s.seq

theorem mergeStep_holdsNewest {e : Entry} (hm : mergeStep s = .ok (e, u)) : u.HoldsNewest := by
  obtain ⟨a, b, q1, q2, -, -, -, -, -, -, hk, hn, rfl⟩ := mergeStep_ok hm
  exact ⟨e, mem_insertEntry.mpr (.inl rfl), congrArg (· + 1) hn, congrArg (· + 1) hk⟩

theorem MergeChain.holdsNewest {n : Nat} (hc : MergeChain n s u) (hn : n ≠ 0) : u.HoldsNewest := by
  cases hc with
  | refl => exact absurd rfl hn
  | cons hm rest => exact rest.keeps (fun _ _ _ hm _ => mergeStep_holdsNewest hm) (mergeStep_holdsNewest hm)

/-- Merge steps never take the last entry, so there are fewer of them than entries (R134). -/
theorem MergeChain.le_pred {n : Nat} (hc : MergeChain n s u) : n ≤ s.queue.length - 1 := by
  by_cases hn : n = 0
  · omega
  · obtain ⟨e, he, -⟩ := hc.holdsNewest hn
    have hpos := List.length_pos_of_mem he
    obtain ⟨hlen, -⟩ := hc.counts
    omega

/-- The loop goes on after the merge steps of a chain as it would from their end. -/
theorem MergeChain.buildLoop {n : Nat} (hc : MergeChain n s u) (fuel : Nat) :
    buildLoop (fuel + n) s = buildLoop fuel u := by
  induction hc with
  | refl => rfl
  | @cons n s v u e hm _ ih =>
    have htwo : ¬ s.queue.length ≤ 1 := by
      have := mergeStep_two_le hm
      omega
    rw [← ih, ← Nat.add_assoc, Machine.buildLoop, if_neg htwo, hm]

theorem MergeChain.phase {n : Nat} (hc : MergeChain n s u) : u.phase = s.phase := by
  rw [hc.frame]

/-- BUILD answers from the end of a chain of merge steps what it answers from the start (R129). -/
theorem MergeChain.exec_build {n : Nat} (hc : MergeChain n s u) (hp : s.phase = .load) :
    exec .build s = exec .build u := by
  have hs := Phase.ne_built_of_eq_load hp
  obtain ⟨hlen, -⟩ := hc.counts
  rw [exec, exec, execBuild, execBuild, if_neg hs, hc.phase, if_neg hs, hlen, hc.buildLoop]

theorem exec_build_locked (hp : s.phase = .built) : exec .build s = raise s .locked := if_pos hp

theorem exec_build_error (hp : s.phase = .load) (hq : 1 < s.queue.length) {e : ErrCode}
    (hm : mergeStep s = .error e) : exec .build s = raise s e := by
  obtain ⟨k, hk⟩ := Nat.exists_eq_add_of_lt hq
  rw [exec, execBuild, if_neg (Phase.ne_built_of_eq_load hp), hk, buildLoop, if_neg (Nat.not_le_of_lt hq), hm]

/-- With at most one entry the loop of BUILD is over (R129). -/
theorem buildLoop_le_one (h : s.queue.length ≤ 1) (fuel : Nat) : buildLoop fuel s = (none, s) := by
  cases fuel with
  | zero => rfl
  | succ fuel => rw [buildLoop, if_pos h]

theorem exec_build_one (hp : s.phase = .load) {e : Entry} (hq : s.queue = [e]) :
    exec .build s = if ¬ s.Valid e.n then raise s .badNode
      else finish (s.fixRoot e.n e.w (zext32 e.k) (zext32 e.n)) := by
  rw [exec, execBuild, if_neg (Phase.ne_built_of_eq_load hp), buildLoop_le_one (by simp [hq])]
  simp only [hq, minEntry_singleton]

theorem exec_build_empty (hp : s.phase = .load) (hq : s.queue = []) :
    exec .build s = finish (s.fixRoot s.params.null 0 0 (zext32 s.params.null)) := by
  rw [exec, execBuild, if_neg (Phase.ne_built_of_eq_load hp), buildLoop_le_one (by simp [hq])]
  simp only [hq, minEntry]

/-- The loop of BUILD ends (R134): merge steps lead to where at most one entry is left, or to where the next one fails. -/
theorem exists_mergeChain_end (s : State) :
    ∃ n u, MergeChain n s u ∧ (u.queue.length ≤ 1 ∨ (1 < u.queue.length ∧ ∃ e, mergeStep u = .error e)) := by
  obtain ⟨n, hc, hend⟩ := buildLoop_spec (s := s) le_rfl rfl
  refine ⟨n, _, hc, ?_⟩
  obtain ⟨-, hq⟩ | ⟨e, -, hq, hm⟩ := hend
  · exact .inl hq
  · exact .inr ⟨hq, e, hm⟩

/-- However BUILD ends, it has made a chain of merge steps, and where it succeeds the loop has left at most one entry. -/
theorem exec_build_chain (h : exec .build s = .next t) :
    ∃ n u, MergeChain n s u ∧ t.queue = u.queue ∧ t.nalloc = u.nalloc ∧ t.seq = u.seq ∧
      (t.err = .ok → u.queue.length ≤ 1) := by
  obtain ⟨e, u, hs, rfl⟩ | ⟨u, hc, rfl⟩ := exec_ends h
  · have herr : (u.raiseErr e).err = .ok → u.queue.length ≤ 1 := fun hok => absurd hok hs.ne_ok
    cases hs with
    | buildLocked hp => exact ⟨0, s, .refl s, rfl, rfl, rfl, herr⟩
    | buildFails hp hc hq hm => exact ⟨_, u, hc, rfl, rfl, rfl, herr⟩
    | buildBadNode hp hc hq hn => exact ⟨_, u, hc, rfl, rfl, rfl, herr⟩
  · cases hc with
    | buildTree hp hc hq hn => exact ⟨_, _, hc, rfl, rfl, rfl, fun _ => by simp [hq]⟩
    | buildEmpty hp hc hq => exact ⟨_, _, hc, rfl, rfl, rfl, fun _ => by simp [hq]⟩

/-- Merge steps write only the records that they allocate. -/
theorem MergeChain.read {n h : Nat} (hc : MergeChain n s u) (hw : s.store.wf = true)
    (hh : h < s.nalloc ∨ u.nalloc ≤ h) : u.store.read h = s.store.read h := by
  induction hc with
  | refl => rfl
  | @cons n s v u e hm rest ih =>
    obtain ⟨a, b, q1, q2, -, -, -, -, -, -, -, -, rfl⟩ := mergeStep_ok hm
    obtain ⟨-, hu⟩ := rest.counts
    have hcount : u.nalloc = s.nalloc + 1 + n := by rw [hu]
    have hne : h ≠ s.nalloc := by omega
    rw [ih (Memory.wf_write hw _ _) (hh.imp_left Nat.lt_succ_of_lt), Memory.read_write hw, if_neg hne]

/-! ### A BUILD that fits (R129, R134) -/

theorem totalWeight_cons (e : Entry) (q : List Entry) : totalWeight (e :: q) = e.w.toNat + totalWeight q := by
  simp [totalWeight]

theorem totalWeight_perm {q q' : List Entry} (h : q.Perm q') : totalWeight q = totalWeight q' :=
  (h.map _).sum_eq

/-- The queue names allocated nodes alone, its merges have room, and its weights sum to `W`, which fits (R132). -/
structure State.Fits (s : State) (W : Nat) : Prop where
  valid : ∀ e, e ∈ s.queue → e.n < s.nalloc
  room : s.nalloc + s.queue.length ≤ s.params.ncap + 1
  weight : totalWeight s.queue = W
  bound : W < 2 ^ 32

theorem mergeStep_of_fits {W : Nat} (h : s.Fits W) (hq : 1 < s.queue.length) : ∃ e u, mergeStep s = .ok (e, u) := by
  obtain ⟨a, b, q1, q2, ha, hb⟩ := exists_extractMin_two hq
  have hperm := extractMin_two_perm ha hb
  have hsum := totalWeight_perm hperm
  rw [totalWeight_cons, totalWeight_cons] at hsum
  have hroom := h.room
  have hweight := h.weight
  have hbound := h.bound
  exact ⟨_, _, mergeStep_merges ha hb (h.valid a (hperm.mem_iff.mpr (by simp)))
    (h.valid b (hperm.mem_iff.mpr (by simp))) (by omega) (by omega)⟩

/-- A merge keeps the sum of the weights (R132), and uses one record for one entry less. -/
theorem mergeStep_keeps_fits {W : Nat} {e : Entry} (hm : mergeStep s = .ok (e, u)) (h : s.Fits W) : u.Fits W := by
  have hlen := mergeStep_length hm
  obtain ⟨a, b, q1, q2, ha, hb, -, -, -, hw, -, hn, rfl⟩ := mergeStep_ok hm
  have hperm := extractMin_two_perm ha hb
  refine ⟨fun x hx => ?_, ?_, ?_, h.bound⟩
  · obtain rfl | hx := mem_insertEntry.mp hx
    · simp [hn]
    · exact Nat.lt_succ_of_lt (h.valid x (hperm.mem_iff.mpr (by simp [hx])))
  · have hroom := h.room
    simp only at hlen ⊢
    omega
  · calc totalWeight (insertEntry e q2)
        = a.w.toNat + b.w.toNat + totalWeight q2 := by rw [totalWeight_perm (insertEntry_perm e q2), totalWeight_cons, hw]
      _ = totalWeight s.queue := by rw [totalWeight_perm hperm, totalWeight_cons, totalWeight_cons, Nat.add_assoc]
      _ = W := h.weight

/-- From a queue that fits and is not empty the loop of BUILD ends with one entry. -/
theorem State.Fits.exists_chain {W : Nat} (h : s.Fits W) (hq : s.queue ≠ []) :
    ∃ u e, MergeChain (s.queue.length - 1) s u ∧ u.queue = [e] ∧ u.Fits W := by
  obtain ⟨n, u, hc, hend⟩ := exists_mergeChain_end s
  have hu : u.Fits W := hc.keeps (fun _ _ _ hm hs => mergeStep_keeps_fits hm hs) h
  have hone : u.queue.length ≤ 1 := by
    refine hend.resolve_right fun ⟨htwo, x, hx⟩ => ?_
    obtain ⟨e, v, hv⟩ := mergeStep_of_fits hu htwo
    rw [hx] at hv
    cases hv
  have hpos := List.length_pos_of_ne_nil hq
  have hle := hc.le_pred
  obtain ⟨hlen, -⟩ := hc.counts
  obtain rfl : n = s.queue.length - 1 := by omega
  obtain ⟨e, he⟩ := List.length_eq_one_iff.mp (by omega : u.queue.length = 1)
  exact ⟨u, e, hc, he, hu⟩

/-! ### NODE_READ (R131), case by case -/

theorem exec_nodeRead_badNode (h : s.nalloc ≤ s.la2.toNat) : exec .nodeRead s = raise s .badNode :=
  if_pos (Nat.not_lt_of_le h)

theorem exec_nodeRead_valid (h : s.la2.toNat < s.nalloc) :
    exec .nodeRead s = finish (s.setResults (s.store.read s.handleArg).weight (zext32 (s.store.read s.handleArg).symbol)
      (packChildren (s.store.read s.handleArg).right (s.store.read s.handleArg).left)) :=
  if_neg (not_not.mpr h)

/-- A valid handle in LA2 fits HW bits, so none of it is cut off. -/
theorem State.handleArg_of_valid (hp : s.params.wellFormed = true) (hc : s.nalloc ≤ s.params.ncap)
    (h : s.la2.toNat < s.nalloc) : s.handleArg = s.la2.toNat := by
  obtain ⟨-, -, hnull, -⟩ := wellFormed_bounds hp
  have hpow : s.params.null ≤ 2 ^ s.params.hw := Nat.sub_le _ 1
  exact lowBits_eq_toNat (by omega)

/-! ### The weight policy (R132) -/

theorem State.WeightPolicy.entry_weight (h : s.WeightPolicy) {e : Entry} (he : e ∈ s.queue) :
    (s.store.read e.n).weight = e.w := (h.1 e he).2

/-- Entries may leave. -/
theorem State.WeightPolicy.dequeue (h : s.WeightPolicy) {q : List Entry} (hq : q ⊆ s.queue) :
    ({ s with queue := q } : State).WeightPolicy := by
  obtain ⟨hentries, hnodes⟩ := h
  exact ⟨fun e he => hentries e (hq he), hnodes⟩

/-- An entry may join that carries the weight of its node. -/
theorem State.WeightPolicy.enqueue (h : s.WeightPolicy) {e : Entry} (hn : e.n < s.nalloc)
    (hw : (s.store.read e.n).weight = e.w) : (s.enqueue e).WeightPolicy := by
  obtain ⟨hentries, hnodes⟩ := h
  refine ⟨fun x hx => ?_, hnodes⟩
  obtain rfl | hx := mem_insertEntry.mp hx
  · exact ⟨hn, hw⟩
  · exact hentries x hx

theorem State.allocate_read_old (hw : s.store.wf = true) (n : Node) {x : Nat} (hx : x < s.nalloc) :
    (s.allocate n).store.read x = s.store.read x := by
  rw [State.allocate_read hw, if_neg (Nat.ne_of_lt hx)]

theorem State.allocate_read_new (hw : s.store.wf = true) (n : Node) :
    (s.allocate n).store.read s.nalloc = n := by
  rw [State.allocate_read hw, if_pos rfl]

/-- The record `n` is a leaf, or its weight is the sum of those of its children, two valid handles. -/
abbrev State.AdmitsRecord (s : State) (n : Node) : Prop :=
  n.isLeaf s.params = true ∨ (n.left < s.nalloc ∧ n.right < s.nalloc ∧
    n.weight.toNat = (s.store.read n.left).weight.toNat + (s.store.read n.right).weight.toNat)

/-- The children of an internal node are smaller handles (R48). -/
theorem State.Inv.children_lt (h : s.Inv) {x : Nat} (hx : x < s.nalloc)
    (hint : (s.store.read x).isLeaf s.params = false) : (s.store.read x).left < x ∧ (s.store.read x).right < x := by
  have hchild (b : Bool) : (s.store.read x).child b < x := by
    obtain ⟨hleaf, -⟩ | ⟨-, hlt⟩ := h.child_cases hx b
    · exact absurd (hleaf.symm.trans hint) (by decide)
    · exact hlt
  exact ⟨hchild false, hchild true⟩

/-- A record may be allocated that the policy admits: no older record names it as a child (R48). -/
theorem State.WeightPolicy.allocate (h : s.WeightPolicy) (hi : s.Inv) {n : Node} (hn : s.AdmitsRecord n) :
    (s.allocate n).WeightPolicy := by
  obtain ⟨hentries, hnodes⟩ := h
  constructor
  · intro e he
    obtain ⟨hlt, hw⟩ := hentries e he
    rw [State.allocate_read_old hi.store n hlt]
    exact ⟨Nat.lt_succ_of_lt hlt, hw⟩
  · intro x hx hint
    obtain hold | rfl := Nat.lt_succ_iff_lt_or_eq.mp hx
    · rw [State.allocate_read_old hi.store n hold] at hint ⊢
      obtain ⟨hl, hr⟩ := hi.children_lt hold hint
      rw [State.allocate_read_old hi.store n (lt_trans hl hold), State.allocate_read_old hi.store n (lt_trans hr hold)]
      exact hnodes x hold hint
    · rw [State.allocate_read_new hi.store] at hint ⊢
      obtain hleaf | ⟨hl, hr, hw⟩ := hn
      · exact absurd (hleaf.symm.trans hint) (by decide)
      · rw [State.allocate_read_old hi.store n hl, State.allocate_read_old hi.store n hr]
        exact hw

/-- A merge step adds the weights of its two entries, which are those of their nodes. -/
theorem mergeStep_keeps_weightPolicy {e : Entry} (hm : mergeStep s = .ok (e, u)) (hi : s.Inv) (h : s.WeightPolicy) :
    u.WeightPolicy := by
  obtain ⟨a, b, q1, q2, ha, hb, han, hbn, -, hw, -, hn, rfl⟩ := mergeStep_ok hm
  have hperm := extractMin_two_perm ha hb
  have hsum : e.w.toNat = (s.store.read a.n).weight.toNat + (s.store.read b.n).weight.toNat := by
    rw [h.entry_weight (hperm.mem_iff.mpr (by simp)), h.entry_weight (hperm.mem_iff.mpr (by simp)), hw]
  have hnode : s.AdmitsRecord (Node.internal e.w a.n b.n) := .inr ⟨han, hbn, hsum⟩
  have hrest : ({ s.allocate (Node.internal e.w a.n b.n) with queue := q2 } : State).WeightPolicy :=
    (h.allocate hi hnode).dequeue ((extractMin_sublist hb).trans (extractMin_sublist ha)).subset
  have hnew : ((s.allocate (Node.internal e.w a.n b.n)).store.read e.n).weight = e.w := by
    rw [hn, State.allocate_read_new hi.store]
    rfl
  exact hrest.enqueue (by simp [hn]) hnew

theorem MergeChain.keeps_weightPolicy {n : Nat} (hc : MergeChain n s u) (hp : s.phase = .load) (hi : s.Inv)
    (h : s.WeightPolicy) : u.WeightPolicy := by
  have hkeeps := hc.keeps (P := fun x => (x.phase = .load ∧ x.Inv) ∧ x.WeightPolicy)
    (fun _ _ _ hm ⟨⟨hl, hx⟩, hw⟩ => ⟨mergeStep_keeps_inv hm ⟨hl, hx⟩, mergeStep_keeps_weightPolicy hm hx hw⟩) ⟨⟨hp, hi⟩, h⟩
  exact hkeeps.2

/-- The leaf that LEAF allocates and its entry have the same weight. -/
theorem State.WeightPolicy.addLeaf (h : s.WeightPolicy) (hi : s.Inv) (w : Word) (x k : Nat) :
    (((s.allocate (Node.leaf s.params w x)).markSeen x).enqueue { w := w, k := k, n := s.nalloc }).WeightPolicy := by
  have hleaf : s.AdmitsRecord (Node.leaf s.params w x) := .inl (Node.isLeaf_iff.mpr ⟨rfl, rfl⟩)
  have hseen : ((s.allocate (Node.leaf s.params w x)).markSeen x).WeightPolicy := h.allocate hi hleaf
  refine hseen.enqueue (Nat.lt_succ_self s.nalloc) ?_
  rw [State.markSeen_store, State.allocate_read_new hi.store]
  rfl

theorem Stops.keeps_weightPolicy {i : Instr} {e : ErrCode} (hs : Stops s i e u) (hi : s.Inv) (h : s.WeightPolicy) :
    u.WeightPolicy := by
  cases hs with
  | buildFails hp hc hq hm => exact hc.keeps_weightPolicy hp hi h
  | buildBadNode hp hc hq hn => exact hc.keeps_weightPolicy hp hi h
  | _ => exact h

theorem Completes.keeps_weightPolicy {i : Instr} (hc : Completes s i u) (hne : i ≠ .pqInsert) (hi : s.Inv)
    (h : s.WeightPolicy) : u.WeightPolicy := by
  cases hc with
  | clear => exact ⟨fun _ he => absurd he List.not_mem_nil, fun x hx => absurd hx (Nat.not_lt_zero x)⟩
  | leaf hx hp hs ha hq => exact h.addLeaf hi _ _ _
  | merge hp hm =>
    have hstep := mergeStep_keeps_weightPolicy hm hi h
    exact hstep
  | buildTree hp hc hq hn => exact hc.keeps_weightPolicy hp hi h
  | buildEmpty hp hc hq => exact hc.keeps_weightPolicy hp hi h
  | insert hk hh hq => exact absurd rfl hne
  | extract hm => exact h.dequeue (extractMin_sublist hm).subset
  | _ => exact h

end

/-! ### The statements -/

/-- Settles O39: the five checks in order, then the updates of R126 one after another. -/
theorem leafAllocatesAndInserts : Obligations.LeafAllocatesAndInserts := by
  refine ⟨onlyWord_encode .leaf, fun s hw => ⟨fun h => ?_, fun hx hp => ?_, fun hx hp hs => ?_, fun hx hp hs ha => ?_,
    fun hx hp hs ha hq => ?_, fun hx hp hs ha hq => ?_⟩⟩
  · exact exec_leaf_badArg (Nat.not_lt_of_le h)
  · exact exec_leaf_locked hx hp
  · rw [exec_leaf_load hx hp, if_pos hs]
    rfl
  · rw [exec_leaf_load hx hp, if_neg hs, if_pos ha]
    rfl
  · rw [exec_leaf_load hx hp, if_neg hs, if_neg ha, if_pos hq]
    rfl
  · rw [exec_leaf_load hx hp, if_neg hs, if_neg ha, if_neg hq]
    exact ⟨_, rfl, rfl, State.allocate_read hw _, fun _ => mem_insertSymbol, insertEntry_perm _ _⟩

/-- Settles O40: the two least entries are the ones that the merge step extracts, one after the other. -/
theorem mergeJoinsTheTwoLeastEntries : Obligations.MergeJoinsTheTwoLeastEntries := by
  refine ⟨onlyWord_encode .merge, fun s hw => ⟨exec_merge_locked, fun hp hq => exec_merge_error hp (mergeStep_emptyQ hq),
    fun a b q hp hperm hamin hbmin => ?_⟩⟩
  obtain ⟨q1, ha, hq1⟩ := extractMin_of_perm hperm hamin
  obtain ⟨q2, hb, hq2⟩ := extractMin_of_perm hq1 hbmin
  refine ⟨fun hn => ?_, fun han hbn hcap => ?_, fun han hbn hcap hsum => ?_, fun han hbn hcap hsum => ?_⟩
  · exact exec_merge_error hp (mergeStep_badNode ha hb (hn.imp Nat.not_lt_of_le Nat.not_lt_of_le))
  · exact exec_merge_error hp (mergeStep_aFull ha hb han hbn hcap)
  · exact exec_merge_error hp (mergeStep_wOvf ha hb han hbn hcap hsum)
  · exact ⟨_, exec_merge_ok hp (mergeStep_merges ha hb han hbn hcap hsum), rfl, BitVec.toNat_add_of_lt hsum,
      State.allocate_read hw _, (insertEntry_perm _ q2).trans (hq2.cons _)⟩

/-- Settles O41: BUILD answers from the end of the chain, and there in each case as its end says. -/
theorem buildRunsMergesThenFixesTheRoot : Obligations.BuildRunsMergesThenFixesTheRoot := by
  refine ⟨onlyWord_encode .build, fun s => ⟨exec_build_locked, fun _ => ?_, fun n u hp hc => ?_⟩⟩
  · obtain ⟨n, u, hc, hend⟩ := exists_mergeChain_end s
    exact ⟨n, u, hc, hend.imp_right And.right⟩
  · have hu : u.phase = .load := hc.phase.trans hp
    have hparams : u.params = s.params := by rw [hc.frame]
    rw [hc.exec_build hp]
    refine ⟨fun x hq hm => exec_build_error hu hq hm, fun e hq hn => ?_, fun e hq hn => ?_, fun hq => ?_⟩
    · rw [exec_build_one hu hq, if_neg (not_not.mpr hn)]
      rfl
    · rw [exec_build_one hu hq, if_pos (Nat.not_lt_of_le hn)]
      rfl
    · rw [exec_build_empty hu hq, ← hparams]
      rfl

/-- Settles O42: what fits still fits after a merge step, so no step fails before one entry of the whole weight is left. -/
theorem buildThatFitsEndsWithTheRoot : Obligations.BuildThatFitsEndsWithTheRoot := by
  intro s hp hq hvalid hroom hweight
  have hfits : s.Fits (totalWeight s.queue) := ⟨hvalid, hroom, rfl, hweight⟩
  obtain ⟨u, e, hc, hone, hu⟩ := hfits.exists_chain hq
  have hn : e.n < u.nalloc := hu.valid e (by simp [hone])
  obtain ⟨-, hcounts⟩ := hc.counts
  have hparams : u.params = s.params := by rw [hcounts]
  refine ⟨(u.fixRoot e.n e.w (zext32 e.k) (zext32 e.n)).complete, e, ?_, hone, hn, ?_, fun htwo => ?_, ?_, ?_⟩
  · rw [hc.exec_build hp, exec_build_one (hc.phase.trans hp) hone, if_neg (not_not.mpr hn)]
    rfl
  · rw [← hu.weight, hone, totalWeight_cons]
    rfl
  · obtain ⟨x, hx, hnew⟩ := hc.holdsNewest (by omega)
    obtain rfl : x = e := by simpa [hone] using hx
    rwa [hparams] at hnew
  · exact fun hw h hh => hc.read hw hh
  · rw [hone] at hcounts
    rw [hcounts]
    rfl

/-- Settles O43: BUILD makes a chain of merge steps, which never take the last entry. -/
theorem buildMakesFewerMergesThanEntries : Obligations.BuildMakesFewerMergesThanEntries := by
  refine ⟨fun s u e hm => (mergeStep_length hm).symm, fun s => ?_⟩
  obtain ⟨t, ht⟩ := exec_next .build s
  obtain ⟨n, u, hc, hq, hn, hs, hok⟩ := exec_build_chain ht
  obtain ⟨hlen, hcounts⟩ := hc.counts
  rw [← hq] at hlen hok
  exact ⟨t, n, ht, hc.le_pred, hlen, by rw [hn, hcounts], by rw [hs, hcounts], hok⟩

/-- Settles O44: a valid handle keeps all its bits as the operand, and the record there is packed into the results. -/
theorem nodeReadReturnsTheRecord : Obligations.NodeReadReturnsTheRecord := by
  refine ⟨onlyWord_encode .nodeRead, fun s hcap hp => ⟨exec_nodeRead_badNode, fun hn => ?_⟩⟩
  rw [exec_nodeRead_valid hn, State.handleArg_of_valid hp hcap hn]
  rfl

/-- Settles O45: by cases on how the command ends; LEAF and merge steps bring entries and records of equal weight. -/
theorem weightsStayConsistentWithoutInserts : Obligations.WeightsStayConsistentWithoutInserts := by
  intro i s t hi h hne hx
  obtain ⟨e, u, hs, rfl⟩ | ⟨u, hc, rfl⟩ := exec_ends hx
  · exact hs.keeps_weightPolicy hi h
  · exact hc.keeps_weightPolicy hne hi h

end Sys2Proof.Machine

/-! SUPPORT. The decoder commands: what each answers in each of its cases, and strings of bits along a walk of the tree. -/

namespace Sys2Proof.Machine

section
variable {s t u : State} {b : Bool}

/-! ### DEC_RESET (R151), case by case -/

theorem State.tree_eq_false (h : ¬ (s.phase = .built ∧ s.root ≠ s.params.null)) : s.tree = false :=
  Bool.eq_false_of_not_eq_true (mt s.tree_iff.mp h)

theorem exec_decReset_tree (ht : s.tree = true) :
    exec .decReset s = finish { s with cur := s.root, outcnt := 0, symv := false } := if_pos ht

theorem exec_decReset_noTree (ht : s.tree = false) : exec .decReset s = raise s .noTree :=
  if_neg (Bool.not_eq_true _ ▸ ht)

/-! ### DEC_BIT (R152), case by case -/

/-- The state after a DEC_BIT that arrives at `h`: at a leaf back at the root with the symbol in the results, else at `h`. -/
def State.arrivedAt (s : State) (h : Nat) : State :=
  if (s.store.read h).isLeaf s.params then
    { s with
      res1 := zext32 (s.store.read h).symbol, res2 := zext32 h, symv := true, outcnt := s.outcnt + 1, cur := s.root,
      err := .ok, pend := false }
  else { s with symv := false, cur := h, err := .ok, pend := false }

theorem State.arrivedAt_leaf {h : Nat} (hl : (s.store.read h).isLeaf s.params = true) :
    s.arrivedAt h = { s with
      res1 := zext32 (s.store.read h).symbol, res2 := zext32 h, symv := true, outcnt := s.outcnt + 1, cur := s.root,
      err := .ok, pend := false } := if_pos hl

theorem State.arrivedAt_internal {h : Nat} (hl : (s.store.read h).isLeaf s.params = false) :
    s.arrivedAt h = { s with symv := false, cur := h, err := .ok, pend := false } :=
  if_neg (Bool.not_eq_true _ ▸ hl)

theorem arrive_eq (s : State) (h : Nat) : arrive s h = .next (s.arrivedAt h) :=
  (apply_ite Host.Outcome.next _ _ _).symm

theorem exec_decBit_arrives {h : Nat} (ht : s.tree = true) (ha : s.Arrives b h) :
    exec (.decBit b) s = .next (s.arrivedAt h) := by
  rw [exec, execDecBit, if_pos ht, ← arrive_eq]
  obtain ⟨hc, rfl⟩ | ⟨hc, hl, rfl⟩ := ha
  · exact if_pos hc
  · exact (if_neg (not_not.mpr hc)).trans (if_pos hl)

theorem exec_decBit_noTree (ht : s.tree = false) : exec (.decBit b) s = raise { s with symv := false } .noTree :=
  if_neg (Bool.not_eq_true _ ▸ ht)

theorem exec_decBit_decErr (ht : s.tree = true) (hc : (s.store.read s.cur).child b = s.params.null)
    (hl : (s.store.read s.cur).isLeaf s.params = false) :
    exec (.decBit b) s = raise { s with symv := false } .decErr := by
  rw [exec, execDecBit, if_pos ht]
  exact (if_neg (not_not.mpr hc)).trans (if_neg (Bool.not_eq_true _ ▸ hl))

/-! ### Where CUR stands (R153 to R155) -/

/-- Where ROOT is a leaf, CUR has not left it. -/
theorem State.Inv.cur_eq_root_of_leaf (h : s.Inv) (ht : s.tree = true)
    (hl : (s.store.read s.root).isLeaf s.params = true) : s.cur = s.root := by
  obtain ⟨bits, hw⟩ := h.reached ht
  cases bits with
  | nil => exact (Option.some.inj hw).symm
  | cons d ds => simp [walkFrom, hl] at hw

/-- An absent child occurs only at a leaf (R154). -/
theorem State.Inv.leaf_of_absent (h : s.Inv) (ht : s.tree = true)
    (hc : (s.store.read s.cur).child b = s.params.null) : (s.store.read s.cur).isLeaf s.params = true :=
  Bool.eq_true_of_not_eq_false fun hl => h.not_decErr ht hc hl

/-- The child that a DEC_BIT names is absent exactly where ROOT is a leaf. -/
theorem State.Inv.absent_iff_root_leaf (h : s.Inv) (ht : s.tree = true) (b : Bool) :
    (s.store.read s.cur).child b = s.params.null ↔ (s.store.read s.root).isLeaf s.params = true := by
  constructor
  · intro hc
    have hl := h.leaf_of_absent ht hc
    exact h.resting ht hl ▸ hl
  · intro hl
    rw [h.cur_eq_root_of_leaf ht hl]
    obtain ⟨hleft, hright⟩ := Node.isLeaf_iff.mp hl
    cases b with
    | false => exact hleft
    | true => exact hright

/-- A child of an internal node is a smaller handle (R48). -/
theorem State.Inv.child_lt (h : s.Inv) {x : Nat} (hx : x < s.nalloc) (hl : (s.store.read x).isLeaf s.params = false)
    (b : Bool) : (s.store.read x).child b < x := by
  obtain ⟨hleft, hright⟩ := h.children_lt hx hl
  cases b with
  | false => exact hleft
  | true => exact hright

/-- From an internal node DEC_BIT arrives at the child. -/
theorem State.Inv.arrives_child (h : s.Inv) (ht : s.tree = true) (hl : (s.store.read s.cur).isLeaf s.params = false)
    (b : Bool) : s.Arrives b ((s.store.read s.cur).child b) :=
  .inl ⟨fun hc => h.not_decErr ht hc hl, rfl⟩

/-! ### The frame of the decoder (R150) -/

/-- `t` differs from `s` at most in what the decoder commands write. -/
abbrev State.DecoderFrame (s t : State) : Prop :=
  t = { s with
    cur := t.cur, outcnt := t.outcnt, symv := t.symv, res1 := t.res1, res2 := t.res2,
    err := t.err, errs := t.errs, pend := false }

theorem exec_decReset_frame (h : exec .decReset s = .next t) : s.DecoderFrame t := by
  obtain ⟨e, u, hs, rfl⟩ | ⟨u, hc, rfl⟩ := exec_ends h
  · cases hs with | decResetNoTree ht => rfl
  · cases hc with | decReset ht => rfl

theorem exec_decBit_frame (h : exec (.decBit b) s = .next t) : s.DecoderFrame t := by
  obtain ⟨e, u, hs, rfl⟩ | ⟨u, hc, rfl⟩ := exec_ends h
  · rw [hs.of_decBit]
    rfl
  · cases hc with
    | move _ ht ha hl => rfl
    | emit _ ht ha hl => rfl

/-- While TREE = 1, DEC_BIT raises nothing where the invariant holds (R154). -/
theorem exec_decBit_ok (hi : s.Inv) (ht : s.tree = true) (h : exec (.decBit b) s = .next t) : t.err = .ok := by
  obtain ⟨e, u, hs, rfl⟩ | ⟨u, hc, rfl⟩ := exec_ends h
  · cases hs with
    | decBitNoTree _ hn =>
      rw [ht] at hn
      cases hn
    | decBitDecErr _ _ hc hl => exact (hi.not_decErr ht hc hl).elim
  · rfl

/-! ### Strings of bits (R156) -/

/-- `s.Feeds bits out t`: DEC_BITs for `bits` lead from `s` to `t` and emit `out`, whatever bits follow. -/
abbrev State.Feeds (s : State) (bits : List Bool) (out : List (Option Word)) (t : State) : Prop :=
  ∀ rest, feedBits (bits ++ rest) s = feedBits rest t ∧ emissions (bits ++ rest) s = out ++ emissions rest t

/-- What the host collects after one DEC_BIT that has led to `t`. -/
def State.emission (t : State) : Option Word := if t.symv then some t.res1 else none

theorem State.Feeds.nil (s : State) : s.Feeds [] [] s := fun _ => ⟨rfl, rfl⟩

theorem State.Feeds.cons {bits : List Bool} {out : List (Option Word)} (hx : exec (.decBit b) s = .next u)
    (h : u.Feeds bits out t) : s.Feeds (b :: bits) (u.emission :: out) t := by
  intro rest
  obtain ⟨hf, he⟩ := h rest
  constructor
  · rw [List.cons_append, feedBits, hx]
    exact hf
  · rw [List.cons_append, emissions, hx]
    exact congrArg (u.emission :: ·) he

theorem State.Feeds.append {bits bits' : List Bool} {out out' : List (Option Word)} (h : s.Feeds bits out u)
    (h' : u.Feeds bits' out' t) : s.Feeds (bits ++ bits') (out ++ out') t := by
  intro rest
  obtain ⟨hf, he⟩ := h (bits' ++ rest)
  obtain ⟨hf', he'⟩ := h' rest
  rw [List.append_assoc, List.append_assoc, hf, he, hf', he']
  exact ⟨rfl, rfl⟩

theorem State.Feeds.feedBits {bits : List Bool} {out : List (Option Word)} (h : s.Feeds bits out t) :
    feedBits bits s = .next t := by
  simpa [Machine.feedBits] using (h []).1

theorem State.Feeds.emissions {bits : List Bool} {out : List (Option Word)} (h : s.Feeds bits out t) :
    emissions bits s = out := by
  simpa [Machine.emissions] using (h []).2

/-! ### Walks (R156, R157) -/

theorem walkFrom_cons_eq_some {p : Params} {m : Memory} {x y : Nat} {bits : List Bool}
    (hw : walkFrom p m x (b :: bits) = some y) :
    (m.read x).isLeaf p = false ∧ walkFrom p m ((m.read x).child b) bits = some y := by
  rw [walkFrom] at hw
  split_ifs at hw with hl
  exact ⟨Bool.eq_false_of_not_eq_true hl, hw⟩

/-- Feeding the bits of a walk from CUR emits nothing before its last bit, and ends where that bit arrives. -/
theorem State.Inv.feeds_walk {x : Nat} {bits : List Bool} (h : s.Inv) (ht : s.tree = true)
    (hw : walkFrom s.params s.store s.cur (b :: bits) = some x) :
    s.Feeds (b :: bits) (List.replicate bits.length none ++ [(s.arrivedAt x).emission]) (s.arrivedAt x) := by
  induction bits generalizing s b with
  | nil =>
    obtain ⟨hcur, hw⟩ := walkFrom_cons_eq_some hw
    obtain rfl := Option.some.inj hw
    exact .cons (exec_decBit_arrives ht (h.arrives_child ht hcur b)) (.nil _)
  | cons d ds ih =>
    obtain ⟨hcur, hw⟩ := walkFrom_cons_eq_some hw
    obtain ⟨hl, -⟩ := walkFrom_cons_eq_some hw
    have hx := exec_decBit_arrives ht (h.arrives_child ht hcur b)
    rw [State.arrivedAt_internal hl] at hx
    exact .cons hx (ih (exec_keeps_inv h hx) ht hw)

/-- Each edge of a walk leads to a smaller handle (R48), so a walk of at least one edge never ends where it began. -/
theorem State.Inv.walk_lt {x y : Nat} {bits : List Bool} (h : s.Inv) (hx : x < s.nalloc)
    (hw : walkFrom s.params s.store x (b :: bits) = some y) : y < x := by
  induction bits generalizing x b with
  | nil =>
    obtain ⟨hl, hw⟩ := walkFrom_cons_eq_some hw
    obtain rfl := Option.some.inj hw
    exact h.child_lt hx hl b
  | cons d ds ih =>
    obtain ⟨hl, hw⟩ := walkFrom_cons_eq_some hw
    have hlt := h.child_lt hx hl b
    exact lt_trans (ih (lt_trans hlt hx) hw) hlt

/-- The invariant holds after an emission, with the walk back at the root. -/
theorem State.Inv.arrivedAt_leaf {l : Nat} (h : s.Inv) (ht : s.tree = true)
    (hl : (s.store.read l).isLeaf s.params = true) : (s.arrivedAt l).Inv := by
  rw [State.arrivedAt_leaf hl]
  exact (h.setCur_root ht).congr rfl rfl rfl rfl rfl rfl rfl rfl rfl (by simp)

/-- What the codes of leaves emit: nothing before the last bit of each, and there the symbol of its leaf (R156). -/
def State.codeEmissions (s : State) (codes : List (List Bool × Nat)) : List (Option Word) :=
  codes.flatMap fun c => List.replicate (c.1.length - 1) none ++ [some (zext32 (s.store.read c.2).symbol)]

/-- The code of one leaf emits its symbol and leads from ROOT back to ROOT. -/
theorem State.Inv.feeds_code {bits : List Bool} {l : Nat} (h : s.Inv) (ht : s.tree = true)
    (hroot : (s.store.read s.root).isLeaf s.params = false) (hcur : s.cur = s.root) (hc : s.CodeOf bits l) :
    s.Feeds bits (List.replicate (bits.length - 1) none ++ [some (zext32 (s.store.read l).symbol)]) (s.arrivedAt l) := by
  obtain ⟨hw, hl⟩ := hc
  cases bits with
  | nil =>
    obtain rfl := Option.some.inj hw
    rw [hroot] at hl
    cases hl
  | cons b bits =>
    have hf := h.feeds_walk ht (hcur ▸ hw)
    have he : (s.arrivedAt l).emission = some (zext32 (s.store.read l).symbol) := by
      rw [State.arrivedAt_leaf hl]
      rfl
    rwa [he] at hf

theorem State.Inv.feeds_codes {codes : List (List Bool × Nat)} (h : s.Inv) (ht : s.tree = true)
    (hroot : (s.store.read s.root).isLeaf s.params = false) (hcur : s.cur = s.root)
    (hcodes : ∀ c, c ∈ codes → s.CodeOf c.1 c.2) :
    ∃ t, s.Feeds (codes.flatMap Prod.fst) (s.codeEmissions codes) t ∧ t.cur = s.root ∧ t.root = s.root ∧
      t.outcnt = s.outcnt + BitVec.ofNat 32 codes.length := by
  induction codes generalizing s with
  | nil => exact ⟨s, .nil s, hcur, rfl, by simp⟩
  | cons c cs ih =>
    have hc := hcodes c (by simp)
    have hf := h.feeds_code ht hroot hcur hc
    have hi := h.arrivedAt_leaf ht hc.2
    rw [State.arrivedAt_leaf hc.2] at hf hi
    obtain ⟨t, hft, htc, htr, hto⟩ := ih hi ht hroot rfl fun d hd => hcodes d (List.mem_cons_of_mem c hd)
    refine ⟨t, hf.append hft, htc, htr, hto.trans ?_⟩
    rw [List.length_cons, Nat.add_comm, BitVec.ofNat_add, ← BitVec.add_assoc]
    rfl

/-! ### Every string of bits (R158) -/

/-- What a state has to do with the one that a string of bits leads to, whatever the string. -/
structure State.DecodesTo (s t : State) : Prop where
  inv : t.Inv
  tree : t.tree = true
  root : t.root = s.root
  store : t.store = s.store

theorem exec_decBit_decodesTo (h : s.Inv) (ht : s.tree = true) (hx : exec (.decBit b) s = .next t) :
    s.DecodesTo t := by
  have hi := exec_keeps_inv h hx
  have hf := exec_decBit_frame hx
  exact ⟨hi, by rw [hf]; exact ht, by rw [hf], by rw [hf]⟩

/-- OUTCNT counts what one DEC_BIT emits. -/
theorem exec_decBit_outcnt (hx : exec (.decBit b) s = .next t) :
    t.outcnt = s.outcnt + BitVec.ofNat 32 ([t.emission].countP Option.isSome) := by
  obtain ⟨hv, ho⟩ | ⟨hv, ho⟩ := exec_decBit_symv hx
  · simp [State.emission, hv, ho]
  · simp [State.emission, hv, ho]

theorem State.Inv.feeds_bits (bits : List Bool) (h : s.Inv) (ht : s.tree = true) :
    ∃ t out, s.Feeds bits out t ∧ s.DecodesTo t ∧ (bits ≠ [] ∨ s.err = .ok → t.err = .ok) ∧
      out.length = bits.length ∧ t.outcnt = s.outcnt + BitVec.ofNat 32 (out.countP Option.isSome) := by
  induction bits generalizing s with
  | nil => exact ⟨s, [], .nil s, ⟨h, ht, rfl, rfl⟩, fun he => he.resolve_left (by simp), rfl, by simp⟩
  | cons b bs ih =>
    obtain ⟨u, hx⟩ := exec_next (.decBit b) s
    have hu := exec_decBit_decodesTo h ht hx
    obtain ⟨t, out, hf, hd, he, hlen, hcnt⟩ := ih hu.inv hu.tree
    refine ⟨t, u.emission :: out, .cons hx hf, ⟨hd.inv, hd.tree, hd.root.trans hu.root, hd.store.trans hu.store⟩,
      fun _ => he (.inr (exec_decBit_ok h ht hx)), congrArg (· + 1) hlen, ?_⟩
    rw [hcnt, exec_decBit_outcnt hx, BitVec.add_assoc, ← BitVec.ofNat_add, ← List.countP_append]
    rfl

end

/-! ### The statements -/

/-- Settles O31: by cases on how the two commands end. -/
theorem decoderWritesOnlyItsOwnState : Obligations.DecoderWritesOnlyItsOwnState := by
  rintro i s t (rfl | ⟨b, rfl⟩) h
  · exact exec_decReset_frame h
  · exact exec_decBit_frame h

/-- Settles O46: with a tree the command completes, and without one it raises NOTREE. -/
theorem decResetReturnsToTheRoot : Obligations.DecResetReturnsToTheRoot :=
  ⟨onlyWord_encode .decReset, fun s =>
    ⟨fun h => exec_decReset_tree (s.tree_iff.mpr h), fun h => exec_decReset_noTree (State.tree_eq_false h)⟩⟩

/-- Settles O47: the command arrives at the child or, where that is absent at a leaf, at CUR, and each is a leaf or not. -/
theorem decBitWalksOneEdge : Obligations.DecBitWalksOneEdge := by
  refine ⟨onlyWord_encode (.decBit false), onlyWord_encode (.decBit true), ?_⟩
  rintro s b n c rfl hchild
  obtain rfl : c = (s.store.read s.cur).child b := hchild
  refine ⟨fun h => exec_decBit_noTree (State.tree_eq_false h), fun hp hr => ?_⟩
  have ht : s.tree = true := s.tree_iff.mpr ⟨hp, hr⟩
  refine ⟨fun hc hl => ?_, fun hc hl => ?_, fun hc hl => ?_, exec_decBit_decErr ht, fun h => h.absent_iff_root_leaf ht b⟩
  · rw [exec_decBit_arrives ht (.inl ⟨hc, rfl⟩), State.arrivedAt_internal hl]
  · rw [exec_decBit_arrives ht (.inl ⟨hc, rfl⟩), State.arrivedAt_leaf hl]
    rfl
  · rw [exec_decBit_arrives ht (.inr ⟨hc, hl, rfl⟩), State.arrivedAt_leaf hl]
    rfl

/-- Settles O48: CUR stands at ROOT, whose children are both absent. -/
theorem singleSymbolTreeEmitsOnEitherBit : Obligations.SingleSymbolTreeEmitsOnEitherBit := by
  intro s b h ht hl
  have hc := (h.absent_iff_root_leaf ht b).mpr hl
  have ha : s.Arrives b s.root :=
    .inr ⟨hc, h.leaf_of_absent ht hc, (h.cur_eq_root_of_leaf ht hl).symm⟩
  rw [exec_decBit_arrives ht ha, State.arrivedAt_leaf hl]
  rfl

/-- Settles O49: every command keeps the invariant, which excludes DECERR; a child of an internal node is a valid handle. -/
theorem decErrIsNeverRaised : Obligations.DecErrIsNeverRaised :=
  fun _ h => ⟨fun _ _ hx => (exec_keeps_inv h hx).err, fun ht _ hc => h.leaf_of_absent ht hc⟩

/-- Settles O50, by induction on the codes: each is a walk from ROOT to its leaf, and its last bit leads back to ROOT. -/
theorem codesDecodeToTheirSymbols : Obligations.CodesDecodeToTheirSymbols := by
  intro s codes h ht hroot hcur hcodes
  obtain ⟨t, hf, htc, htr, hto⟩ := h.feeds_codes ht hroot hcur hcodes
  exact ⟨hf.emissions, t, hf.feedBits, htc, by simp [State.midcode, htc, htr], hto⟩

/-- Settles O51: the bits are a walk from ROOT that ends at an internal node below it. -/
theorem incompleteCodeLeavesMidcode : Obligations.IncompleteCodeLeavesMidcode := by
  intro s bits x h ht hcur hne hw hl
  obtain ⟨b, bs, rfl⟩ := List.exists_cons_of_ne_nil hne
  have hf := h.feeds_walk ht (hcur ▸ hw)
  have hroot : x ≠ s.root := Nat.ne_of_lt (h.walk_lt (h.valid ht).1 hw)
  rw [State.arrivedAt_internal hl] at hf
  refine ⟨hf.emissions.trans List.replicate_succ'.symm, _, hf.feedBits, rfl, hroot, ?_, rfl, rfl, rfl, rfl⟩
  exact State.midcode_iff.mpr ⟨ht, hroot⟩

/-- Settles O52, by induction on the bits: each DEC_BIT completes, keeps the invariant and the tree, and counts what it
emits. -/
theorem everyBitStringHasADefinedResult : Obligations.EveryBitStringHasADefinedResult := by
  intro bits s h ht
  obtain ⟨t, out, hf, hd, he, hlen, hcnt⟩ := h.feeds_bits bits ht
  rw [hf.emissions]
  exact ⟨t, hf.feedBits, fun hne => he (.inl hne), hd.inv, hd.tree, hd.root, hd.store, hlen, hcnt⟩

end Sys2Proof.Machine

/-! SUPPORT. The control commands and the commands that the phase forbids: the illegal word, and who raises LOCKED and
NOTREE. -/

namespace Sys2Proof.Machine

section
variable {s t u : State} {i : Instr} {e : ErrCode}

/-! ### The illegal word (R168) -/

/-- An illegal word, given by its number, names no command: it fails a check of R97. -/
theorem IllegalWord.decodeWord_eq_none {v : Word} (h : IllegalWord v) : decodeWord v = none := by
  apply decodeWord_eq_none_of_illegal
  rw [opField_toNat]
  obtain hop | hrsv | ⟨hb, hop⟩ := h
  · exact .inl hop
  · exact .inr (.inl (mt (rsvField_eq_zero v).mp hrsv))
  · exact .inr (.inr ⟨fun h9 => hop (by rw [← opField_toNat, h9]; rfl), (bField_eq_true v).mpr hb⟩)

/-- With an illegal word latched the engine raises ILLEGAL. -/
theorem engineStep_illegal (hp : s.pend = true) (h : IllegalWord s.lcmd) : engineStep s = raise s .illegal := by
  rw [engineStep_pending hp, performLatched, h.decodeWord_eq_none, performIllegal]

theorem step_illegal {ts : List Turn} (h : IllegalWord s.lcmd) (hp : s.pend = true) (ht : s.turns = .engine :: ts) :
    step s = .next { s with turns := ts, err := .illegal, errs := true, pend := false } := by
  rw [step_engine ht]
  exact engineStep_illegal (s := { s with turns := ts }) hp h

/-! ### The errors of the phase (R169) -/

/-- A merge step looks at neither PHASE nor TREE. -/
theorem mergeStep_error_ne_locked_noTree (hm : mergeStep s = .error e) : e ≠ .locked ∧ e ≠ .noTree := by
  obtain ⟨rfl, -⟩ | ⟨rfl | rfl | rfl, -⟩ := mergeStep_error hm <;> decide

/-- A command that answers with an error code has raised it: completing writes 0. -/
theorem exec_stops (h : exec i s = .next t) (he : t.err ≠ .ok) : ∃ u, Stops s i t.err u := by
  obtain ⟨e, u, hs, rfl⟩ | ⟨u, -, rfl⟩ := exec_ends h
  · exact ⟨u, hs⟩
  · exact absurd rfl he

theorem err_of_exec_raise (h : exec i s = .next t) (hr : exec i s = raise u e) : t.err = e := by
  obtain rfl : u.raiseErr e = t := Host.Outcome.next.inj (hr.symm.trans h)
  rfl

theorem Stops.of_locked (hs : Stops s i .locked u) :
    s.phase = .built ∧ (i = .merge ∨ i = .build ∨ (i = .leaf ∧ s.SymbolInRange)) := by
  cases hs with
  | leafLocked hx hp => exact ⟨hp, .inr (.inr ⟨rfl, hx⟩)⟩
  | mergeLocked hp => exact ⟨hp, .inl rfl⟩
  | buildLocked hp => exact ⟨hp, .inr (.inl rfl)⟩
  | mergeFails hp hm => exact absurd rfl (mergeStep_error_ne_locked_noTree hm).1
  | buildFails hp hc hq hm => exact absurd rfl (mergeStep_error_ne_locked_noTree hm).1

theorem Stops.of_noTree (hs : Stops s i .noTree u) : s.tree = false ∧ (i = .decReset ∨ ∃ b, i = .decBit b) := by
  cases hs with
  | decResetNoTree ht => exact ⟨ht, .inl rfl⟩
  | decBitNoTree b ht => exact ⟨ht, .inr ⟨b, rfl⟩⟩
  | mergeFails hp hm => exact absurd rfl (mergeStep_error_ne_locked_noTree hm).2
  | buildFails hp hc hq hm => exact absurd rfl (mergeStep_error_ne_locked_noTree hm).2

/-- Who raises LOCKED: MERGE, BUILD and a LEAF that passed its range check, once the tree is finished. -/
theorem exec_err_locked_iff (h : exec i s = .next t) : t.err = .locked ↔
    s.phase = .built ∧ (i = .merge ∨ i = .build ∨ (i = .leaf ∧ s.SymbolInRange)) := by
  constructor
  · intro he
    obtain ⟨u, hs⟩ := exec_stops h (by simp [he])
    exact (he ▸ hs).of_locked
  · rintro ⟨hp, rfl | rfl | ⟨rfl, hx⟩⟩
    · exact err_of_exec_raise h (exec_merge_locked hp)
    · exact err_of_exec_raise h (exec_build_locked hp)
    · exact err_of_exec_raise h (exec_leaf_locked hx hp)

/-- Who raises NOTREE: the two decoder commands, while TREE = 0. -/
theorem exec_err_noTree_iff (h : exec i s = .next t) : t.err = .noTree ↔
    s.tree = false ∧ (i = .decReset ∨ ∃ b, i = .decBit b) := by
  constructor
  · intro he
    obtain ⟨u, hs⟩ := exec_stops h (by simp [he])
    exact (he ▸ hs).of_noTree
  · rintro ⟨ht, rfl | ⟨b, rfl⟩⟩
    · exact err_of_exec_raise h (exec_decReset_noTree ht)
    · exact err_of_exec_raise h (exec_decBit_noTree ht)

end

/-! ### The statements -/

/-- Settles O4: the write is accepted like any other, and the word that it latches decodes to no command. -/
theorem illegalWordRaisesIllegal : Obligations.IllegalWordRaisesIllegal :=
  ⟨fun s v rest _ hv hp ht h => ⟨_, idleCmdWriteIsAccepted s v rest _ hp ht h, rfl, step_illegal hv rfl rfl⟩,
    fun _ _ => step_illegal⟩

/-- Settles O22: LOCKED and NOTREE each by who raises them, and the range check of LEAF comes before the phase. -/
theorem phaseTableOfCommands : Obligations.PhaseTableOfCommands := by
  intro i s t h
  refine ⟨exec_err_locked_iff h, ?_, ?_⟩
  · rw [exec_err_noTree_iff h, ← Bool.not_eq_true, s.tree_iff]
    rfl
  · rintro rfl hx
    exact err_of_exec_raise h (exec_leaf_badArg (Nat.not_lt_of_le hx))

/-- Settles O33: the other commands leave a finished tree's PHASE alone. -/
theorem clearDiscardsEngineState : Obligations.ClearDiscardsEngineState := by
  refine ⟨onlyWord_encode .clear, fun _ => rfl, fun i s t hb h hl => by_contra fun hcl => ?_⟩
  obtain ⟨-, -, -, -, -, hphase⟩ := finishedTreeIsImmutable i s t hb hcl h
  exact State.not_load_of_built hphase hl

/-- Settles O32: NOP completes in the state that it finds. -/
theorem nopWritesOnlyErr : Obligations.NopWritesOnlyErr :=
  ⟨onlyWord_encode .nop, fun _ => rfl⟩

end Sys2Proof.Machine

/-! SUPPORT. The precision of errors: what of the state a command has written by the time it raises one. -/

namespace Sys2Proof.Machine

section
variable {s t u : State} {i : Instr} {e : ErrCode}

/-! ### What a command has made of the state when it raises an error (R180) -/

/-- A command that answers with an error code has stopped in some state, and the answer is that state with the error. -/
theorem exec_raises (h : exec i s = .next t) (he : t.err ≠ .ok) : ∃ u, Stops s i t.err u ∧ t = u.raiseErr t.err := by
  obtain ⟨e, u, hs, rfl⟩ | ⟨u, -, rfl⟩ := exec_ends h
  · exact ⟨u, hs, rfl⟩
  · exact absurd rfl he

/-- A command other than DEC_BIT and BUILD has written nothing by then. -/
theorem Stops.eq_self (hs : Stops s i e u) (hd : ∀ b, i ≠ .decBit b) (hb : i ≠ .build) : u = s := by
  cases hs with
  | buildLocked | buildFails | buildBadNode => exact absurd rfl hb
  | decBitNoTree b | decBitDecErr b => exact absurd rfl (hd b)
  | _ => rfl

/-- BUILD has made a chain of merge steps by then, and where the chain ends says which error it raises (R129). -/
theorem Stops.of_build (hs : Stops s .build e u) : ∃ n, MergeChain n s u ∧
    ((s.phase = .built ∧ n = 0 ∧ e = .locked) ∨
      (s.phase = .load ∧ 1 < u.queue.length ∧ mergeStep u = .error e) ∨
      (s.phase = .load ∧ ∃ x, u.queue = [x] ∧ u.nalloc ≤ x.n ∧ e = .badNode)) := by
  cases hs with
  | buildLocked hp => exact ⟨0, .refl s, .inl ⟨hp, rfl, rfl⟩⟩
  | buildFails hp hc hq hm => exact ⟨_, hc, .inr (.inl ⟨hp, hq, hm⟩)⟩
  | buildBadNode hp hc hq hn => exact ⟨_, hc, .inr (.inr ⟨hp, _, hq, hn, rfl⟩)⟩

/-! ### EMPTYQ (R177) -/

/-- A merge step that finds more than one entry fails for another reason than an empty queue. -/
theorem mergeStep_error_ne_emptyQ (hq : 1 < s.queue.length) (hm : mergeStep s = .error e) : e ≠ .emptyQ := by
  obtain ⟨-, hlt⟩ | ⟨rfl | rfl | rfl, -⟩ := mergeStep_error hm
  · exact absurd hq (Nat.not_lt_of_le (Nat.le_of_lt_succ hlt))
  all_goals decide

/-- BUILD tries a merge step only while the queue holds more than one entry. -/
theorem Stops.build_ne_emptyQ (hs : Stops s .build e u) : e ≠ .emptyQ := by
  obtain ⟨n, -, ⟨-, -, rfl⟩ | ⟨-, hq, hm⟩ | ⟨-, x, -, -, rfl⟩⟩ := hs.of_build
  · decide
  · exact mergeStep_error_ne_emptyQ hq hm
  · decide

/-! ### The codes (R175) -/

theorem ErrCode.code_lt (e : ErrCode) : e.code.toNat < 12 := by
  cases e <;> decide

end

/-! ### The statements -/

/-- Settles O21: the answer is the state in which the command stopped, with the error raised there. -/
theorem errorsArePrecise : Obligations.ErrorsArePrecise := by
  intro i s t h he
  obtain ⟨u, hs, ht⟩ := exec_raises h he
  refine ⟨by rw [ht]; rfl, by rw [ht]; rfl, ?_, ?_, fun hd hb => ?_⟩
  · rintro ⟨b, rfl⟩
    rwa [hs.of_decBit] at ht
  · rintro rfl
    obtain ⟨n, hc, hend⟩ := hs.of_build
    exact ⟨n, u, hc, ht, hend⟩
  · rwa [hs.eq_self hd hb] at ht

/-- Settles O24: EMPTYQ would have to come from a merge step, and BUILD tries none with fewer than two entries. -/
theorem buildNeverRaisesEmptyQueue : Obligations.BuildNeverRaisesEmptyQueue := by
  intro s t h he
  obtain ⟨u, hs⟩ := exec_stops h (by simp [he])
  exact hs.build_ne_emptyQ he

/-- Settles O12: each code as tabled, and none from 12 on. -/
theorem errorCodesAreAsTabled : Obligations.ErrorCodesAreAsTabled :=
  ⟨rfl, rfl, rfl, rfl, rfl, rfl, rfl, rfl, rfl, rfl, rfl, rfl, ErrCode.code_lt⟩

end Sys2Proof.Machine

/-! SUPPORT. The reset input, and that the engine's turn completes a pending command. -/

namespace Sys2Proof.Machine

/-! ### The STATUS word after a reset (R37, R61) -/

/-- The reset input leaves no tree, since PHASE is 0 (R39). -/
theorem State.tree_assertReset (s : State) : s.assertReset.tree = false := by
  have hload : s.assertReset.phase = .load := rfl
  exact State.tree_eq_false fun ⟨hbuilt, _⟩ => State.not_load_of_built hbuilt hload

/-- With no tree there is no partial code either (R41). -/
theorem State.midcode_assertReset (s : State) : s.assertReset.midcode = false := by
  rw [State.midcode, s.tree_assertReset, Bool.false_and]

/-- STATUS does not depend on the state that is reset: the computed bits are 0 and the others are constants of R61. -/
theorem State.statusWord_assertReset (s : State) : s.assertReset.statusWord = 0 := by
  have hsame : s.assertReset.statusWord = State.reset.assertReset.statusWord := by
    simp only [State.statusWord, State.tree_assertReset, State.midcode_assertReset]
    rfl
  rw [hsame]
  decide

/-! ### The statements -/

/-- Settles O6: the engine performs the latched word, legal or not, once its turn is taken off the schedule. -/
theorem everyAcceptedCommandCompletes : Obligations.EveryAcceptedCommandCompletes := by
  intro s ts hp ht
  obtain ⟨t, hstep, hpend, -⟩ := engineStep_completes (s := { s with turns := ts }) hp
  exact ⟨t, (step_engine ht).trans hstep, hpend⟩

/-- Settles O54: the reset input does not look at PEND; STATUS is 0 since there is no tree and every flag is cleared. -/
theorem resetInputGivesTheResetState : Obligations.ResetInputGivesTheResetState := by
  intro s ts ht
  refine ⟨_, step_reset ht, rfl, State.statusWord_assertReset _, ?_⟩
  exact ⟨rfl, rfl, rfl, rfl, rfl, rfl, rfl, rfl, rfl, rfl, rfl, rfl, rfl, rfl⟩

end Sys2Proof.Machine

/-! SUPPORT. Bus addresses of the platform, the step with no turn listed, and what the reset input leaves to the host. -/

namespace Sys2Proof.Machine

/-! ### The window (R71) -/

theorem BusAddr.windowOffset_offset {o : Nat} (h : o < 64) : (BusAddr.offset o).windowOffset = some o := if_pos h

/-- BASE is a multiple of 64 (log entry 4), so the low 6 bits of `BASE + o` are `o`. -/
theorem BusAddr.windowOffset_bus_base_add {o : Nat} (h : o < 64) :
    (BusAddr.bus (Config.base + o)).windowOffset = some o := by
  have hlow : (Config.base + o) % 64 = o := by
    rw [Config.base, Nat.mul_add_mod, Nat.mod_eq_of_lt h]
  have hin : Config.base ≤ Config.base + o ∧ Config.base + o < Config.base + 64 :=
    ⟨Nat.le_add_right _ _, Nat.add_lt_add_left h _⟩
  rw [windowOffset, if_pos hin, hlow]

theorem BusAddr.windowOffset_bus_outside {a : Nat} (h : a < Config.base ∨ Config.base + 64 ≤ a) :
    (BusAddr.bus a).windowOffset = none :=
  if_neg fun ⟨hlow, hhigh⟩ => h.elim hlow.not_gt hhigh.not_ge

/-- Which register an access reaches depends on the address only by its offset in the window. -/
theorem busTarget_eq_ok_iff {size : AccessSize} {addr : BusAddr} {r : Reg} :
    busTarget size addr = .ok r ↔ size = .bits32 ∧ ∃ o, addr.windowOffset = some o ∧ regAt o = some r := by
  by_cases hsize : size = .bits32
  · cases hw : addr.windowOffset with
    | none => simp [busTarget, hsize, hw]
    | some o => cases hr : regAt o <;> simp [busTarget, hsize, hw, hr]
  · simp [busTarget, hsize]

theorem busTarget_outside {addr : BusAddr} (h : addr.windowOffset = none) (size : AccessSize) :
    ∃ r, busTarget size addr = .error r := by
  cases hb : busTarget size addr with
  | error r => exact ⟨r, rfl⟩
  | ok reg =>
    obtain ⟨-, o, ho, -⟩ := busTarget_eq_ok_iff.mp hb
    rw [h] at ho
    cases ho

/-! ### A host with nothing left to do (R17) -/

theorem hostStep_nil {s : State} (h : s.prog = []) : hostStep s = .next s := by
  simp only [hostStep, h]

/-! ### The statements -/

/-- Settles O14: both addresses have the same offset in the window, and an address outside has none. -/
theorem busAddressesAreRelativeToBase : Obligations.BusAddressesAreRelativeToBase := by
  refine ⟨fun o ho => ⟨BusAddr.windowOffset_bus_base_add ho, fun size r => ?_⟩, fun a size ha => ?_⟩
  · rw [busTarget_eq_ok_iff, busTarget_eq_ok_iff, BusAddr.windowOffset_bus_base_add ho, BusAddr.windowOffset_offset ho]
  · exact busTarget_outside (BusAddr.windowOffset_bus_outside ha) size

/-- Settles O57: the engine moves while a command is pending and completes it; else the host moves, with nothing to do. -/
theorem defaultScheduleRunsThePendingCommand : Obligations.DefaultScheduleRunsThePendingCommand := by
  intro s ht
  constructor
  · intro hp
    obtain ⟨t, hstep, hpend, hprog, hturns, -⟩ := engineStep_completes hp
    exact ⟨t, (step_engine_pending ht hp).trans hstep, hpend, hturns.trans ht, hprog⟩
  · intro hp hprog
    exact (step_host_idle ht hp).trans (hostStep_nil hprog)

/-- Settles O58: the state after the reset input takes the host's part from the state before it. -/
theorem resetInputLeavesTheHostAlone : Obligations.ResetInputLeavesTheHostAlone := by
  intro s ts ht
  exact ⟨_, step_reset ht, rfl, rfl, rfl, rfl⟩

end Sys2Proof.Machine
